-- ==== Sys2Proof/Word.lean ====
section
/-! DEFINITION. The data types every other file uses: a byte, a 16-bit register pattern, and a
sequence of eight bytes (a DeviceAddress, or the eight rows of a glyph). -/

namespace Sys2Proof

/-- One byte of a stream, a register or a display cell (R10). -/
abbrev Byte := BitVec 8

/-- A 16-bit pattern: the temperature register, or a 16-bit operand (R93 b). -/
abbrev Half := BitVec 16

/-- Eight bytes in order: a DeviceAddress `A[0..7]` (R93 c, R140) or glyph rows `r0..r7` (R93 d). -/
structure Bytes8 where
  b0 : Byte
  b1 : Byte
  b2 : Byte
  b3 : Byte
  b4 : Byte
  b5 : Byte
  b6 : Byte
  b7 : Byte
  deriving DecidableEq, Repr

/-- A DeviceAddress: family code, six serial bytes, CRC byte (R140). It is a sequence of bytes with
no numeric reading (R65 c). -/
abbrev Addr := Bytes8

end Sys2Proof
end

