-- ==== Sys2Proof/Config.lean ====
section
/-! DEFINITION. The parameters of R9: those the spec leaves open as arguments, those the source
fixes as constants; and the free values: opaque constants with no body, for every point the spec
leaves open. No proof can see a free value. -/

namespace Sys2Proof

/-- One transaction with the line environment, as the environment sees it (R56 to R58), or the wait
event of `SD.WAIT` (R175). A read or a reset carries the answer it got. -/
inductive LineEvent where
  | reset (presence : Bool)
  | write (bit : Bool)
  | read (level : Bool)
  | wait (res : BitVec 2)
  deriving DecidableEq, Repr

/-! ## Parameters (R9, R40) -/

/-- Line timing in microseconds, at the defaults of R310. No rule depends on a duration. -/
structure LineTiming where
  rstl : Nat := 480
  pds  : Nat := 70
  rsth : Nat := 410
  w1l  : Nat := 6
  w1h  : Nat := 64
  w0l  : Nat := 60
  w0h  : Nat := 10
  rl   : Nat := 6
  rs   : Nat := 9
  rh   : Nat := 55
  deriving DecidableEq, Repr

/-- `T_CONV` of the four resolutions in milliseconds, at the defaults of R9 (D16). -/
structure ConvTimes where
  res0 : Nat := 94
  res1 : Nat := 188
  res2 : Nat := 375
  res3 : Nat := 750
  deriving DecidableEq, Repr

/-- The OPEN parameters of R9, which a model takes as arguments. Every function that needs one takes
it from here, and every statement holds for all of them; the values below are the spec's defaults. -/
structure Params where
  /-- `COLS` and `ROWS`, the character grid (D20). -/
  cols : Nat := 16
  rows : Nat := 2
  /-- The four line command bytes (D6). -/
  cmdSearch : Byte := 0xF0#8
  cmdMatch : Byte := 0x55#8
  cmdConvert : Byte := 0x44#8
  cmdReadSp : Byte := 0xBE#8
  /-- `SP_LEN`, the bytes of a scratchpad, the last one its CRC (D17). -/
  spLen : Nat := 9
  /-- `FAMILY_CODE`: only the host looks at it (D30). -/
  familyCode : Byte := 0x28#8
  /-- `T_CONV` (D16). -/
  convTimes : ConvTimes := {}
  /-- `DECODE_MIN`, the decode of register 0x8000 (D18, R189). -/
  decodeMin : Int × Int := (-2048, 0)
  /-- Line timing (D33). -/
  timing : LineTiming := {}
  deriving DecidableEq, Repr

/-- `T_CONV(res)` (R181). -/
def Params.tConv (p : Params) (res : BitVec 2) : Nat :=
  match res.toNat with
  | 0 => p.convTimes.res0
  | 1 => p.convTimes.res1
  | 2 => p.convTimes.res2
  | _ => p.convTimes.res3

/-- What the rules ask of the parameters: `COLS` and `ROWS` are at most 255 (R32), a scratchpad has
two register bytes and a checksum byte behind them (R177), `T_CONV` is strictly increasing (R181 a),
and both parts of `DECODE_MIN` fit the 16 bits of a response (R99). -/
def Params.wf (p : Params) : Bool :=
  decide (p.cols ≤ 255) && decide (p.rows ≤ 255) && decide (3 ≤ p.spLen)
    && decide (p.convTimes.res0 < p.convTimes.res1)
    && decide (p.convTimes.res1 < p.convTimes.res2)
    && decide (p.convTimes.res2 < p.convTimes.res3)
    && decide (-32768 ≤ p.decodeMin.1) && decide (p.decodeMin.1 ≤ 32767)
    && decide (-32768 ≤ p.decodeMin.2) && decide (p.decodeMin.2 ≤ 32767)

namespace Config

/-! ## Values the source fixes (R9) -/

/-- `ADDR_LEN`, the bytes of a DeviceAddress, and the number of its bits (R15). -/
def addrLen : Nat := 8
def addrBits : Nat := 8 * addrLen

/-- `CRC_POLY` (R9, R150). -/
def crcPoly : Byte := 0x8C#8

/-- `NSLOTS`, the custom glyph slots (R9). -/
def nslots : Nat := 2

/-- `GLYPH_W` and `GLYPH_H` (R9): a glyph is 5 pixels wide and 8 high. -/
def glyphW : Nat := 5
def glyphH : Nat := 8

/-- `FRAC_UNIT`, ten-thousandths of a degree per register step (R9, 90_conflicts C1). -/
def fracUnit : Nat := 625

/-- The blank character code (R53, R201). -/
def blank : Byte := 0x20#8

/-- How many rounds of `DS.NEXT` one step runs at most: the 2^64 of R301. If a line environment that
changes its answers makes the loop longer, the same operation goes on in the next step (log 6). -/
def roundsPerStep : Nat := 18446744073709551616

/-! ## Open functions of the panel (uninterpreted parameters; State holds no function) -/

/-- `CGROM(c)[y]` for the codes the spec says nothing about (U8). -/
opaque cgromRow : Byte → Nat → BitVec 5

/-- `CURSOR_SHAPE(y, x)` (U9). -/
opaque cursorShape : Nat → Nat → Bool

/-! ## Free values (93_implementation_defined.md, treatment "any value")

`epoch` numbers the draws of the whole display (the reset, and every response after an UNDEFINED
write); `cp` is the command pointer of the operation, which no two operations of a run share. -/

/-- `DISP_ON` and `CUR_VIS` as a reset leaves them (U3). -/
opaque freeDispOn : Nat → Bool
opaque freeCurVis : Nat → Bool

/-- The whole cursor as a draw of the display leaves it: its position after a reset (U3), and its
position and `CUR_VALID` at every response after an UNDEFINED write (R212, U1). -/
opaque drawnCurCol : Nat → Byte
opaque drawnCurRow : Nat → Byte
opaque drawnCurValid : Nat → Bool

/-- What a `DD` cell and a `CG` row that nothing has written hold (U1, U3): epoch, cell address. -/
opaque freeCell : Nat → Nat → Byte
opaque freeRow : Nat → Nat → BitVec 5

/-- What `SYS.RDREG` of `CUR_COL` and `CUR_ROW` returns while `CUR_VALID` = 0 (U5). -/
opaque freeReadCol : Nat → Nat → Byte
opaque freeReadRow : Nat → Nat → Byte

/-- The cell (row, column), if any, where the visible cursor stands while `CUR_VALID` = 0 (U6). -/
opaque strayCursor : Nat → Nat → Option (Nat × Nat)

/-- The line environment as an oracle (R55, U10): the presence a reset pulse sees and the level a
read slot samples, each a function of everything that happened on the line so far, newest first. -/
opaque linePresence : List LineEvent → Bool
opaque lineLevel : List LineEvent → Bool

end Config
end Sys2Proof
end

