-- ==== Sys2Proof/Syntax.lean ====
section
/-! DEFINITION. The 23 operations of the opcode map (R94), one constructor per row of
spec/opcode_table.json, in the table's order. -/

namespace Sys2Proof

/-- One operation with its operands as R93 assembles them: bytes are unsigned, a 16-bit operand is
one pattern (low byte first in the stream), a DeviceAddress and glyph rows are eight bytes, a text
is its bytes (its count byte is the length), and the operands inside an opcode byte are bits. -/
inductive Instr where
  | sysNop
  | sysRdreg (n : Byte)
  | btReset
  | btWriteBit (b : Bool)
  | btReadBit
  | btWriteByte (v : Byte)
  | btReadByte
  | dsInit
  | dsNext
  | dsVerify (a : Addr)
  | sdStartConv (a : Addr)
  | sdReadTemp (a : Addr)
  | sdDecode (reg : Half)
  | sdWait (res : BitVec 2)
  | sdSetRes (res : BitVec 2)
  | lcdLoadGlyph (slot : Byte) (glyph : Bytes8)
  | lcdSetCursor (col row : Byte)
  | lcdWriteChar (c : Byte)
  | lcdPrint (text : List Byte)
  | lcdClearRegion (col row len : Byte)
  | lcdPrintNum (v : Half)
  | lcdPrintTemp (ti tf : Half)
  | lcdCtrl (d c : Bool)
  deriving DecidableEq, Repr

end Sys2Proof
end

