-- ==== Sys2Proof/WellFormed.lean ====
section
/-! DEFINITION. Which terms of `Instr` are commands. An operand that an operation's rule calls out of
range (R101) is no ill-formed term: the command exists and responds `ERR_ILLEGAL`. -/

namespace Sys2Proof

/-- A text operand has a count byte, so at most 255 characters (R96); every other operand type holds
exactly the values its encoding can carry. -/
def Instr.wellFormed : Instr → Bool
  | .sysNop => true
  | .sysRdreg _ => true
  | .btReset => true
  | .btWriteBit _ => true
  | .btReadBit => true
  | .btWriteByte _ => true
  | .btReadByte => true
  | .dsInit => true
  | .dsNext => true
  | .dsVerify _ => true
  | .sdStartConv _ => true
  | .sdReadTemp _ => true
  | .sdDecode _ => true
  | .sdWait _ => true
  | .sdSetRes _ => true
  | .lcdLoadGlyph _ _ => true
  | .lcdSetCursor _ _ => true
  | .lcdWriteChar _ => true
  | .lcdPrint text => decide (text.length ≤ 255)
  | .lcdClearRegion _ _ _ => true
  | .lcdPrintNum _ => true
  | .lcdPrintTemp _ _ => true
  | .lcdCtrl _ _ => true

end Sys2Proof
end

