-- ==== Sys2Proof/Decode.lean ====
section
/-! DEFINITION. From command bytes to an operation (R90 to R96), total on any bytes, and back. -/

namespace Sys2Proof

/-- The bytes of a DeviceAddress or of glyph rows in stream order (R93 c, d). -/
def Bytes8.toList (x : Bytes8) : List Byte :=
  [x.b0, x.b1, x.b2, x.b3, x.b4, x.b5, x.b6, x.b7]

/-- Low byte of a 16-bit operand: the first of its two bytes (R93 b). -/
def lowByte (v : Half) : Byte := v.extractLsb' 0 8

/-- High byte of a 16-bit operand: the second of its two bytes (R93 b). -/
def highByte (v : Half) : Byte := v.extractLsb' 8 8

/-- `v = hi ++ lo` (R93 b). -/
def halfOf (lo hi : Byte) : Half := hi ++ lo

/-- What the bytes at the command pointer are: an operation and the bytes after it, an illegal opcode
byte (R100), or an incomplete command (R102). -/
inductive Decoded where
  | command (i : Instr) (rest : List Byte)
  | illegalOpcode (op : Byte)
  | incomplete
  deriving DecidableEq, Repr

/-- One byte operand, or an incomplete command. -/
def operand1 (f : Byte → Instr) : List Byte → Decoded
  | x :: rest => .command (f x) rest
  | _ => .incomplete

/-- Two byte operands, or an incomplete command. -/
def operand2 (f : Byte → Byte → Instr) : List Byte → Decoded
  | x :: y :: rest => .command (f x y) rest
  | _ => .incomplete

/-- Three byte operands, or an incomplete command. -/
def operand3 (f : Byte → Byte → Byte → Instr) : List Byte → Decoded
  | x :: y :: z :: rest => .command (f x y z) rest
  | _ => .incomplete

/-- Four byte operands, or an incomplete command. -/
def operand4 (f : Byte → Byte → Byte → Byte → Instr) : List Byte → Decoded
  | w :: x :: y :: z :: rest => .command (f w x y z) rest
  | _ => .incomplete

/-- Eight bytes in stream order, or an incomplete command. -/
def operand8 (f : Bytes8 → Instr) : List Byte → Decoded
  | b0 :: b1 :: b2 :: b3 :: b4 :: b5 :: b6 :: b7 :: rest =>
    .command (f ⟨b0, b1, b2, b3, b4, b5, b6, b7⟩) rest
  | _ => .incomplete

/-- Format `G`: a slot byte, then eight row bytes (R91). -/
def operandGlyph : List Byte → Decoded
  | slot :: rest => operand8 (.lcdLoadGlyph slot) rest
  | _ => .incomplete

/-- The first n bytes and the rest, if there are that many. -/
def splitText : (n : Nat) → List Byte → Option (List Byte × List Byte)
  | 0, rest => some ([], rest)
  | _ + 1, [] => none
  | n + 1, c :: rest =>
    match splitText n rest with
    | some (text, rest) => some (c :: text, rest)
    | none => none

/-- Format `V`: the count byte n, then n character codes (R96). -/
def operandText : List Byte → Decoded
  | n :: rest =>
    match splitText n.toNat rest with
    | some (text, rest) => .command (.lcdPrint text) rest
    | none => .incomplete
  | _ => .incomplete

/-- The opcode map of R94, one line per opcode byte value that is not illegal (R100). -/
def decodeOperands (op : Byte) (rest : List Byte) : Decoded :=
  match op.toNat with
  | 0x00 => .command .sysNop rest
  | 0x01 => operand1 .sysRdreg rest
  | 0x10 => .command .btReset rest
  | 0x12 => .command (.btWriteBit false) rest
  | 0x13 => .command (.btWriteBit true) rest
  | 0x14 => .command .btReadBit rest
  | 0x15 => operand1 .btWriteByte rest
  | 0x16 => .command .btReadByte rest
  | 0x20 => .command .dsInit rest
  | 0x21 => .command .dsNext rest
  | 0x22 => operand8 .dsVerify rest
  | 0x30 => operand8 .sdStartConv rest
  | 0x32 => operand8 .sdReadTemp rest
  | 0x33 => operand2 (fun lo hi => .sdDecode (halfOf lo hi)) rest
  | 0x34 => .command (.sdWait 0) rest
  | 0x35 => .command (.sdWait 1) rest
  | 0x36 => .command (.sdWait 2) rest
  | 0x37 => .command (.sdWait 3) rest
  | 0x38 => .command (.sdSetRes 0) rest
  | 0x39 => .command (.sdSetRes 1) rest
  | 0x3A => .command (.sdSetRes 2) rest
  | 0x3B => .command (.sdSetRes 3) rest
  | 0x40 => operandGlyph rest
  | 0x41 => operand2 .lcdSetCursor rest
  | 0x42 => operand1 .lcdWriteChar rest
  | 0x43 => operandText rest
  | 0x44 => operand3 .lcdClearRegion rest
  | 0x45 => operand2 (fun lo hi => .lcdPrintNum (halfOf lo hi)) rest
  | 0x46 =>
    operand4 (fun ilo ihi flo fhi => .lcdPrintTemp (halfOf ilo ihi) (halfOf flo fhi)) rest
  | 0x48 => .command (.lcdCtrl false false) rest
  | 0x49 => .command (.lcdCtrl false true) rest
  | 0x4A => .command (.lcdCtrl true false) rest
  | 0x4B => .command (.lcdCtrl true true) rest
  | _ => .illegalOpcode op

/-- Read one command from the bytes at the command pointer (R106 steps 1 to 4). -/
def decode : List Byte → Decoded
  | [] => .incomplete
  | op :: rest => decodeOperands op rest

/-- An opcode byte with a one-bit operand in `op[0]` (R92). -/
def opWithBit (op : Byte) (b : Bool) : Byte := op ||| (if b then 1#8 else 0#8)

/-- An opcode byte with a two-bit operand in `op[1:0]` (R92). -/
def opWithRes (op : Byte) (res : BitVec 2) : Byte := op ||| res.zeroExtend 8

/-- The command bytes of an operation (R91, R94). -/
def encode : Instr → List Byte
  | .sysNop => [0x00#8]
  | .sysRdreg n => [0x01#8, n]
  | .btReset => [0x10#8]
  | .btWriteBit b => [opWithBit 0x12#8 b]
  | .btReadBit => [0x14#8]
  | .btWriteByte v => [0x15#8, v]
  | .btReadByte => [0x16#8]
  | .dsInit => [0x20#8]
  | .dsNext => [0x21#8]
  | .dsVerify a => 0x22#8 :: a.toList
  | .sdStartConv a => 0x30#8 :: a.toList
  | .sdReadTemp a => 0x32#8 :: a.toList
  | .sdDecode reg => [0x33#8, lowByte reg, highByte reg]
  | .sdWait res => [opWithRes 0x34#8 res]
  | .sdSetRes res => [opWithRes 0x38#8 res]
  | .lcdLoadGlyph slot glyph => 0x40#8 :: slot :: glyph.toList
  | .lcdSetCursor col row => [0x41#8, col, row]
  | .lcdWriteChar c => [0x42#8, c]
  | .lcdPrint text => 0x43#8 :: BitVec.ofNat 8 text.length :: text
  | .lcdClearRegion col row len => [0x44#8, col, row, len]
  | .lcdPrintNum v => [0x45#8, lowByte v, highByte v]
  | .lcdPrintTemp ti tf => [0x46#8, lowByte ti, highByte ti, lowByte tf, highByte tf]
  | .lcdCtrl d c => [opWithBit (0x48#8 ||| (if d then 2#8 else 0#8)) c]

/-- The length of a command in bytes, from the opcode map's "len" column (R94, R95). -/
def Instr.length : Instr → Nat
  | .sysNop => 1
  | .sysRdreg _ => 2
  | .btReset => 1
  | .btWriteBit _ => 1
  | .btReadBit => 1
  | .btWriteByte _ => 2
  | .btReadByte => 1
  | .dsInit => 1
  | .dsNext => 1
  | .dsVerify _ => 9
  | .sdStartConv _ => 9
  | .sdReadTemp _ => 9
  | .sdDecode _ => 3
  | .sdWait _ => 1
  | .sdSetRes _ => 1
  | .lcdLoadGlyph _ _ => 10
  | .lcdSetCursor _ _ => 3
  | .lcdWriteChar _ => 2
  | .lcdPrint text => 2 + text.length
  | .lcdClearRegion _ _ _ => 4
  | .lcdPrintNum _ => 3
  | .lcdPrintTemp _ _ => 5
  | .lcdCtrl _ _ => 1

/-- The longest command: `LCD.PRINT` with 255 characters (R96). -/
def longestCommand : Nat := 257

/-- The first `count` bytes of a number, least significant first. -/
def bytesOfNat : (count w : Nat) → List Byte
  | 0, _ => []
  | count + 1, w => BitVec.ofNat 8 w :: bytesOfNat count (w / 256)

/-- An instruction of `nbits` bits numbered as the opcode table numbers them, as command bytes: the
bits above `nbits` are 0, up to the longest command. -/
def tableBytes (nbits w : Nat) : List Byte :=
  bytesOfNat longestCommand (w % 2 ^ nbits)

/-- The instruction the decoder reads from the table's word. -/
def decodeTableWord (nbits w : Nat) : Option Instr :=
  match decode (tableBytes nbits w) with
  | .command i _ => some i
  | .illegalOpcode _ => none
  | .incomplete => none

end Sys2Proof
end

