-- ==== Sys2Proof/Machine/State.lean ====
section
/-! DEFINITION. Everything the spec gives the machine (R20, R39), its ports (R267), the line
environment (R55, R70) and the two fields of the model's own, as plain data; why a step can stop;
and the state after reset. -/

namespace Sys2Proof.Machine

/-- A display memory: (cell address, content) pairs, addresses strictly rising, one pair for each
cell that was written since the last draw. An unlisted cell holds a free value (log 2). -/
abbrev Memory (w : Nat) := List (Nat × BitVec w)

/-- Where a device of the reference environment stands in the line protocol (R70). -/
inductive DevMode where
  | idle
  | romCmd (n : Nat) (acc : Byte)
  | search (k phase : Nat)
  | matchRom (k : Nat)
  | func (n : Nat) (acc : Byte)
  | readSp (i : Nat)
  deriving DecidableEq, Repr

/-- A device of the reference environment (R70): address, true resolution, scratchpad, the register
value its next conversion produces, a running conversion, protocol mode. -/
structure Device where
  rom      : Addr
  res      : BitVec 2
  sp       : List Byte
  nextTemp : Half
  pending  : Bool := false
  mode     : DevMode := .idle
  deriving DecidableEq, Repr

/-- The line environment. `oracle` answers whatever it likes (R55): first the listed bits in order,
then free values. `refEnv` is the deterministic REFENV of R70 to R76. -/
inductive Env where
  | oracle (answers : List Bool)
  | refEnv (pullup : Bool) (devices : List Device)
  deriving DecidableEq, Repr

/-- The `LINE` port: whether SWBC pulls the line low (R38, R128), the environment, and what happened
on the line so far, newest first. -/
structure Line where
  pull   : Bool := false
  env    : Env := .oracle []
  events : List LineEvent := []
  deriving DecidableEq, Repr

/-- Status codes (R98). -/
inductive Status where
  | ok
  | errNoDevice
  | errCrcMismatch
  | errIllegal
  deriving DecidableEq, Repr

/-- The state of SWBC (R20), its parameters, its ports, and two fields of the model's own (`undef`,
`epoch`). -/
structure State where
  /-- The parameters of the block (R9, R40). They are arguments of the step and no state: no operation
  and no reset writes them. They stand here because a step takes a state and nothing else (log 9). -/
  params : Params
  /-- `ST[2:0]`, register 0 (R24). -/
  st : BitVec 3
  /-- `RESCFG[1:0]`, register 1 (R25). -/
  resCfg : BitVec 2
  /-- `DISP_ON`, `DCTL[1]` (R26). -/
  dispOn : Bool
  /-- `CUR_VIS`, `DCTL[0]` (R26). -/
  curVis : Bool
  /-- `CUR_COL`, register 3 (R27). -/
  curCol : Byte
  /-- `CUR_ROW`, register 4 (R27). -/
  curRow : Byte
  /-- `CUR_VALID`, `CURST[0]` (R28). -/
  curValid : Bool
  /-- `LD[6:0]`, register 6 (R29). -/
  ld : BitVec 7
  /-- `DONE`, `SFLAGS[0]` (R30). -/
  done : Bool
  /-- `ROM[0..7]`, registers 8 to 15 (R21, R31). -/
  rom : Addr
  /-- `DD`, the frame buffer: 8-bit cells at `row × COLS + col` (R34, R51). -/
  dd : Memory 8
  /-- `CG`, the glyph RAM: 5-bit rows at `slot × 8 + y` (R35, R52). -/
  cg : Memory 5
  /-- `CP`, the index of the next unread command byte (R22). -/
  cp : Nat
  /-- The command stream: every byte the host has sent since reset (R90, port `CMD`). -/
  cmd : List Byte
  /-- The response stream: every byte answered since reset (R90, port `RSP`). -/
  rsp : List Byte
  /-- `CRC_DROP` events on port `DIAG`, oldest first (R268). -/
  diag : List Addr
  /-- The single-wire line (port `LINE`, R55). -/
  line : Line
  /-- The model's own: an UNDEFINED write has happened since reset, so no rule constrains `DD`, `CG`
  and the cursor any more (R14, R212; log 1). -/
  undef : Bool
  /-- The model's own: how often the display contents were drawn free (log 2). -/
  epoch : Nat
  deriving DecidableEq, Repr

/-- Why the machine has no step.
`awaitingCommand`: raised by `step` when the command stream ends before the last byte of a command
(R102, U13 "stuck"). Nothing is executed and nothing changes until the host sends more. Safe. -/
inductive Fault where
  | awaitingCommand
  deriving DecidableEq, Repr

/-- Why an instruction has no meaning. `notModelled`: only an arm of `exec` may answer it, for an
instruction that has no meaning yet; no arm does. Safe. -/
inductive Refusal where
  | notModelled (mnemonic : String)
  deriving DecidableEq, Repr

/-- The state after reset of a block with some parameters (R39, R281): every value the spec gives;
where it says unspecified, a free value of `Config` (log 2, log 3). The environment is an oracle of
which nothing is known (R283). -/
def State.resetWith (p : Params) : State where
  params := p
  st := 0
  resCfg := 3
  dispOn := Config.freeDispOn 0
  curVis := Config.freeCurVis 0
  curCol := Config.drawnCurCol 0
  curRow := Config.drawnCurRow 0
  curValid := false
  ld := 0
  done := false
  rom := ⟨0, 0, 0, 0, 0, 0, 0, 0⟩
  dd := []
  cg := []
  cp := 0
  cmd := []
  rsp := []
  diag := []
  line := { pull := false, env := .oracle [], events := [] }
  undef := false
  epoch := 0

/-- The state after reset of the block with the spec's default parameters (R9). -/
def State.reset : State := State.resetWith {}

end Sys2Proof.Machine
end

