-- ==== Sys2Proof/Machine/Operands.lean ====
section
/-! DEFINITION. Functions of operand values: address bits, CRC-8, the 16-bit forms, decimal text and
the temperature decoder. None of them reads or writes the state. -/

namespace Sys2Proof.Machine

/-! ## Addresses (R15, R140) -/

/-- Byte j of eight, j in 0..7. -/
def byteAt (x : Bytes8) (j : Nat) : Byte :=
  match j with
  | 0 => x.b0
  | 1 => x.b1
  | 2 => x.b2
  | 3 => x.b3
  | 4 => x.b4
  | 5 => x.b5
  | 6 => x.b6
  | _ => x.b7

/-- `AddrBit(A, k)` for k in 1..64 (R15): bit `(k−1) mod 8` of byte `(k−1) div 8`. -/
def addrBit (a : Addr) (k : Nat) : Bool :=
  (byteAt a ((k - 1) / 8)).getLsbD ((k - 1) % 8)

/-- A byte with bit i set to b. -/
def setByteBit (v : Byte) (i : Nat) (b : Bool) : Byte :=
  (v &&& ~~~(1#8 <<< i)) ||| (if b then 1#8 <<< i else 0#8)

/-- `T[(k−1) div 8][(k−1) mod 8] <- b` (R145). -/
def setAddrBit (a : Addr) (k : Nat) (b : Bool) : Addr :=
  let i := (k - 1) % 8
  match (k - 1) / 8 with
  | 0 => { a with b0 := setByteBit a.b0 i b }
  | 1 => { a with b1 := setByteBit a.b1 i b }
  | 2 => { a with b2 := setByteBit a.b2 i b }
  | 3 => { a with b3 := setByteBit a.b3 i b }
  | 4 => { a with b4 := setByteBit a.b4 i b }
  | 5 => { a with b5 := setByteBit a.b5 i b }
  | 6 => { a with b6 := setByteBit a.b6 i b }
  | _ => { a with b7 := setByteBit a.b7 i b }

/-- The all-zero address: the empty `ROM` (R141) and the initial `T` (R145). -/
def zeroAddr : Addr := ⟨0, 0, 0, 0, 0, 0, 0, 0⟩

/-! ## CRC-8 (R150) -/

/-- One shift of the CRC register. -/
def crcShift (crc : Byte) : Byte :=
  if crc.getLsbD 0 then (crc >>> 1) ^^^ Config.crcPoly else crc >>> 1

/-- Shift the register n times. -/
def crcShifts : (n : Nat) → Byte → Byte
  | 0, crc => crc
  | n + 1, crc => crcShifts n (crcShift crc)

/-- Take one byte into the register. -/
def crcByte (crc v : Byte) : Byte := crcShifts 8 (crc ^^^ v)

/-- The register after some bytes, from a given start. -/
def crcFrom (crc : Byte) : List Byte → Byte
  | [] => crc
  | v :: vs => crcFrom (crcByte crc v) vs

/-- `Crc8(B[0..n−1])` (R150). -/
def crc8 (bytes : List Byte) : Byte := crcFrom 0 bytes

/-- `Valid(A)`: the CRC-8 of the first seven bytes is the eighth (R140). -/
def addrValid (a : Addr) : Bool :=
  crc8 [a.b0, a.b1, a.b2, a.b3, a.b4, a.b5, a.b6] == a.b7

/-- A scratchpad block checks: the CRC-8 of all bytes but the last is the last (R177). -/
def scratchpadValid (s : List Byte) : Bool :=
  crc8 s.dropLast == s.getLastD 0

/-! ## 16-bit operands and results (R10, R93) -/

/-- `sext_16(v)` (R10). -/
def sext16 (v : Half) : Int := if v.toNat < 0x8000 then v.toNat else (v.toNat : Int) - 0x10000

/-- `le16(n)`: two bytes, low byte first (R10). -/
def le16 (n : Int) : List Byte :=
  let v : Half := BitVec.ofInt 16 n
  [lowByte v, highByte v]

/-! ## The temperature decoder (R185) -/

/-- `Decode(reg)`: integer part and fraction in ten-thousandths (R185). -/
def decodeTemp (p : Params) (reg : Half) : Int × Int :=
  if reg.getLsbD 15 = false then
    (((reg.toNat >>> 4 : Nat) : Int), (((reg.toNat &&& 0xF) * Config.fracUnit : Nat) : Int))
  else if reg = 0x8000#16 then p.decodeMin
  else
    let a := 0x10000 - reg.toNat
    (-((a >>> 4 : Nat) : Int), -(((a &&& 0xF) * Config.fracUnit : Nat) : Int))

/-- The payload of a temperature response: `le16(int)`, `le16(frac)` (R99). -/
def tempPayload (t : Int × Int) : List Byte := le16 t.1 ++ le16 t.2

/-! ## Decimal text (R16, R209, R210) -/

/-- The character code of a decimal digit. -/
def digitCode (d : Nat) : Byte := BitVec.ofNat 8 (0x30 + d)

/-- Decimal digits of n, at most `fuel` of them. -/
def decDigits : (fuel n : Nat) → List Byte
  | 0, _ => []
  | fuel + 1, n =>
    if n < 10 then [digitCode n] else decDigits fuel (n / 10) ++ [digitCode (n % 10)]

/-- `dec(n)`: decimal digits without leading zeros, "0" for 0 (R16). -/
def dec (n : Nat) : List Byte := decDigits (n + 1) n

/-- `dec4(n)`: exactly four digits (R16). -/
def dec4 (n : Nat) : List Byte :=
  [digitCode (n / 1000 % 10), digitCode (n / 100 % 10), digitCode (n / 10 % 10),
    digitCode (n % 10)]

/-- The minus sign, if the number is negative. -/
def minusIf (neg : Bool) : List Byte := if neg then [0x2D#8] else []

/-- The text of `LCD.PRINT_NUM` (R209). -/
def numText (v : Int) : List Byte := minusIf (decide (v < 0)) ++ dec v.natAbs

/-- A pair no decode produces: fraction too large, or parts of opposite sign (R210). -/
def tempPairIllegal (ti tf : Int) : Bool :=
  decide (tf.natAbs > 9999) || (decide (ti > 0) && decide (tf < 0))
    || (decide (ti < 0) && decide (tf > 0))

/-- The text of `LCD.PRINT_TEMP`: one minus sign if either part is negative (R210). -/
def tempText (ti tf : Int) : List Byte :=
  minusIf (decide (ti < 0) || decide (tf < 0)) ++ dec ti.natAbs ++ [0x2E#8] ++ dec4 tf.natAbs

end Sys2Proof.Machine
end

