-- ==== Sys2Proof/Machine/Flags.lean ====
section
/-! DEFINITION. The four flags (R23) and the registers that show them. -/

namespace Sys2Proof.Machine

/-- A flag as the low bit of a register whose other bits read 0. -/
def flagByte (b : Bool) : Byte := if b then 1#8 else 0#8

/-- `DCTL`, register 2: `DISP_ON` in bit 1, `CUR_VIS` in bit 0 (R26). -/
def dctl (s : State) : Byte :=
  (if s.dispOn then 2#8 else 0#8) ||| flagByte s.curVis

/-- `CURST`, register 5 (R28). -/
def curst (s : State) : Byte := flagByte s.curValid

/-- `SFLAGS`, register 7 (R30). -/
def sflags (s : State) : Byte := flagByte s.done

/-- `CUR_COL <- col ; CUR_ROW <- row ; CUR_VALID <- 1` (R205, R208). -/
def setCursor (col row : Byte) (s : State) : State :=
  { s with curCol := col, curRow := row, curValid := true }

/-- `CUR_VALID <- 0` and nothing else (R203, R204). The position is unspecified from then on (R27):
every read of it gives a free value (`readReg`, `cursorAt`; log 4). -/
def invalidateCursor (s : State) : State := { s with curValid := false }

/-- The empty SearchState: `ROM` all zero, `LD` = 0, `DONE` = 0 (R141). -/
def clearSearch (s : State) : State :=
  { s with rom := zeroAddr, ld := 0, done := false }

/-- The commit of a completed round (R148): `ROM <- T`, `LD <- last_zero`, and `DONE <- 1` when no
discrepancy remains. -/
def commitRound (t : Addr) (lastZero : Nat) (s : State) : State :=
  { s with
    rom := t
    ld := BitVec.ofNat 7 lastZero
    done := if lastZero = 0 then true else s.done }

/-- The end of a pass on no presence or no answer: `DONE <- 1 ; LD <- 0`, `ROM` kept (R143, R252). -/
def endPass (s : State) : State := { s with done := true, ld := 0 }

/-- `DISP_ON <- d ; CUR_VIS <- c` (R211). -/
def setDisplayFlags (d c : Bool) (s : State) : State := { s with dispOn := d, curVis := c }

end Sys2Proof.Machine
end

