-- ==== Sys2Proof/Machine/Line.lean ====
section
/-! DEFINITION. The single-wire line: the three primitives (R55 to R58) against an oracle or the
reference environment (R70 to R76), and the byte and address transfers made of them (R13, R174). -/

namespace Sys2Proof.Machine

/-! ## The reference environment -/

/-- A reset pulse makes a device wait for a command byte (R71). -/
def devReset (d : Device) : Device := { d with mode := .romCmd 0 0 }

/-- What a device does after its eighth bit of a ROM command byte (R72). -/
def afterRomCmd (p : Params) (acc : Byte) : DevMode :=
  if acc = p.cmdSearch then .search 1 0
  else if acc = p.cmdMatch then .matchRom 1
  else .idle

/-- `acc | (b << n)` (R72). -/
def accBit (acc : Byte) (n : Nat) (b : Bool) : Byte := if b then acc ||| (1#8 <<< n) else acc

/-- A device takes a write slot (R72). -/
def devWrite (p : Params) (b : Bool) (d : Device) : Device :=
  match d.mode with
  | .romCmd n acc =>
    { d with
      mode := if n + 1 < 8 then .romCmd (n + 1) (accBit acc n b)
        else afterRomCmd p (accBit acc n b) }
  | .search k phase =>
    { d with
      mode := if phase ≠ 2 then .idle
        else if b ≠ addrBit d.rom k then .idle
        else if k = Config.addrBits then .func 0 0
        else .search (k + 1) 0 }
  | .matchRom k =>
    { d with
      mode := if b ≠ addrBit d.rom k then .idle
        else if k = Config.addrBits then .func 0 0
        else .matchRom (k + 1) }
  | .func n acc =>
    if n + 1 < 8 then { d with mode := .func (n + 1) (accBit acc n b) }
    else if accBit acc n b = p.cmdConvert then { d with pending := true, mode := .idle }
    else if accBit acc n b = p.cmdReadSp then { d with mode := .readSp 0 }
    else { d with mode := .idle }
  | .readSp _ => { d with mode := .idle }
  | .idle => d

/-- The level a device leaves on the line in a read slot: true where it releases the line (R73). -/
def devLevel (d : Device) : Bool :=
  match d.mode with
  | .search k 0 => addrBit d.rom k
  | .search k 1 => !addrBit d.rom k
  | .readSp i => (d.sp.getD (i / 8) 0).getLsbD (i % 8)
  | _ => true

/-- Where a device stands after a read slot (R73). -/
def devAfterRead (p : Params) (d : Device) : Device :=
  { d with
    mode := match d.mode with
      | .search k 0 => .search k 1
      | .search k 1 => .search k 2
      | .readSp i => if i + 1 < 8 * p.spLen then .readSp (i + 1) else .idle
      | _ => .idle }

/-- `Wait(res)` for one device: a conversion that had time to finish leaves its result in the
scratchpad, with its CRC (R74). -/
def devWait (p : Params) (res : BitVec 2) (d : Device) : Device :=
  if d.pending && decide (p.tConv res ≥ p.tConv d.res) then
    let body := lowByte d.nextTemp :: highByte d.nextTemp :: (d.sp.dropLast.drop 2)
    { d with sp := body ++ [crc8 body], pending := false }
  else d

/-! ## The environment behind the three primitives (R55) -/

/-- The environment's answer to a reset pulse (R56, R71). -/
def envPresence (env : Env) (events : List LineEvent) : Bool :=
  match env with
  | .oracle (a :: _) => a
  | .oracle [] => Config.linePresence events
  | .refEnv pullup devices => pullup && !devices.isEmpty

/-- The environment after a reset pulse. -/
def envAfterReset (env : Env) : Env :=
  match env with
  | .oracle answers => .oracle answers.tail
  | .refEnv pullup devices => .refEnv pullup (devices.map devReset)

/-- The environment after a write slot (R57, R72). -/
def envAfterWrite (p : Params) (b : Bool) (env : Env) : Env :=
  match env with
  | .oracle answers => .oracle answers
  | .refEnv pullup devices => .refEnv pullup (devices.map (devWrite p b))

/-- The level sampled in a read slot: the wired AND of the pull-up and all devices (R58, R73). -/
def envLevel (env : Env) (events : List LineEvent) : Bool :=
  match env with
  | .oracle (a :: _) => a
  | .oracle [] => Config.lineLevel events
  | .refEnv pullup devices => pullup && devices.all devLevel

/-- The environment after a read slot. -/
def envAfterRead (p : Params) (env : Env) : Env :=
  match env with
  | .oracle answers => .oracle answers.tail
  | .refEnv pullup devices => .refEnv pullup (devices.map (devAfterRead p))

/-- The environment after the wait event of `SD.WAIT` (R74, R175). -/
def envAfterWait (p : Params) (res : BitVec 2) (env : Env) : Env :=
  match env with
  | .oracle answers => .oracle answers
  | .refEnv pullup devices => .refEnv pullup (devices.map (devWait p res))

/-! ## The pin and the primitives -/

/-- `set_low`: SWBC pulls the line low (R128). -/
def pinLow (l : Line) : Line := { l with pull := true }

/-- `set_high`: SWBC releases the line (R128). -/
def pinHigh (l : Line) : Line := { l with pull := false }

/-- `LineReset() -> p` (R56): pull low, release, sample for a presence pulse. -/
def lineReset (l : Line) : Bool × Line :=
  let p := envPresence l.env l.events
  let l := pinHigh (pinLow l)
  (p, { l with env := envAfterReset l.env, events := .reset p :: l.events })

/-- `LineWrite(b)` (R57): one write slot. -/
def lineWrite (p : Params) (b : Bool) (l : Line) : Line :=
  let l := pinHigh (pinLow l)
  { l with env := envAfterWrite p b l.env, events := .write b :: l.events }

/-- `LineRead() -> b` (R58): one read slot. -/
def lineRead (p : Params) (l : Line) : Bool × Line :=
  let v := envLevel l.env l.events
  let l := pinHigh (pinLow l)
  (v, { l with env := envAfterRead p l.env, events := .read v :: l.events })

/-- The wait event delivered to the environment (R175). The line stays as it is. -/
def lineWait (p : Params) (res : BitVec 2) (l : Line) : Line :=
  { l with env := envAfterWait p res l.env, events := .wait res :: l.events }

/-! ## Bytes on the line (R13, R65 a) -/

/-- Write slots for some bits, in order. -/
def writeBits (p : Params) : List Bool → Line → Line
  | [], l => l
  | b :: bs, l => writeBits p bs (lineWrite p b l)

/-- The bits of a byte, least significant first. -/
def bitsOf (v : Byte) : List Bool :=
  [v.getLsbD 0, v.getLsbD 1, v.getLsbD 2, v.getLsbD 3, v.getLsbD 4, v.getLsbD 5, v.getLsbD 6,
    v.getLsbD 7]

/-- `WriteByte(v)` (R13). -/
def writeByte (p : Params) (v : Byte) (l : Line) : Line := writeBits p (bitsOf v) l

/-- `WriteByte` of each byte in order. -/
def writeBytes (p : Params) : List Byte → Line → Line
  | [], l => l
  | v :: vs, l => writeBytes p vs (writeByte p v l)

/-- n read slots from bit i on, into the byte read so far. -/
def readBitsFrom (p : Params) : (n i : Nat) → Byte → Line → Byte × Line
  | 0, _, v, l => (v, l)
  | n + 1, i, v, l =>
    match lineRead p l with
    | (b, l) => readBitsFrom p n (i + 1) (setByteBit v i b) l

/-- `ReadByte() -> v`: the first slot read is bit 0 (R13, R125). -/
def readByte (p : Params) (l : Line) : Byte × Line := readBitsFrom p 8 0 0 l

/-- `ReadByte` n times, first byte first. -/
def readBytes (p : Params) : (n : Nat) → Line → List Byte × Line
  | 0, l => ([], l)
  | n + 1, l =>
    match readByte p l with
    | (v, l) =>
      match readBytes p n l with
      | (vs, l) => (v :: vs, l)

/-- `Select(A)` (R174): a reset pulse, and with presence the match command and the 64 address bits. -/
def select (p : Params) (a : Addr) (l : Line) : Bool × Line :=
  match lineReset l with
  | (true, l) => (true, writeBytes p (p.cmdMatch :: a.toList) l)
  | (false, l) => (false, l)

end Sys2Proof.Machine
end

