-- ==== Sys2Proof/Machine/Ops.lean ====
section
/-! DEFINITION. The shared operations: display memories, the response that ends every operation, the
error that stops one, the illegal opcode, the character write, and the register read-out. -/

namespace Sys2Proof.Machine

/-! ## Display memories (R12, R51, R52) -/

/-- What was last written to a cell, if anything was since the last draw. -/
def Memory.read? {w : Nat} : Memory w → Nat → Option (BitVec w)
  | [], _ => none
  | (b, u) :: m, a => if a = b then some u else Memory.read? m a

/-- `MemWrite(space, a, 1, v)` (R12), keeping the addresses strictly rising. -/
def Memory.write {w : Nat} (a : Nat) (v : BitVec w) : Memory w → Memory w
  | [] => [(a, v)]
  | (b, u) :: m =>
    if a < b then (a, v) :: (b, u) :: m
    else if a = b then (a, v) :: m
    else (b, u) :: Memory.write a v m

/-- Every address of the list lies above `lo` (or there is no bound yet) and they rise strictly. -/
def Memory.risesFrom {w : Nat} : Option Nat → Memory w → Bool
  | _, [] => true
  | none, (b, _) :: m => Memory.risesFrom (some b) m
  | some lo, (b, _) :: m => decide (lo < b) && Memory.risesFrom (some b) m

/-- The canonical form of a memory of `size` cells: addresses strictly rising, all of them cells. -/
def Memory.wf {w : Nat} (size : Nat) (m : Memory w) : Bool :=
  Memory.risesFrom none m && m.all (fun c => decide (c.1 < size))

/-- `DDRAM` has `ROWS × COLS` cells (R50). -/
def ddSize (p : Params) : Nat := p.rows * p.cols

/-- `CGRAM` has `NSLOTS × 8` cells (R50). -/
def cgSize : Nat := Config.nslots * 8

/-- The cell address of `DD[row][col]` (R12). -/
def ddAddr (p : Params) (row col : Nat) : Nat := row * p.cols + col

/-- The cell address of `CG[slot][y]` (R12). -/
def cgAddr (slot y : Nat) : Nat := slot * 8 + y

/-- `MemRead(DDRAM, a, 1)`: a cell nothing has written holds a free value (U1, U3). -/
def ddCell (s : State) (a : Nat) : Byte := (s.dd.read? a).getD (Config.freeCell s.epoch a)

/-- `MemRead(CGRAM, a, 1)`: a row nothing has written holds a free value (U1, U3). -/
def cgRow (s : State) (a : Nat) : BitVec 5 := (s.cg.read? a).getD (Config.freeRow s.epoch a)

/-- `DD[a] <- v`. -/
def writeDd (a : Nat) (v : Byte) (s : State) : State := { s with dd := s.dd.write a v }

/-- `CG[a] <- v`. -/
def writeCg (a : Nat) (v : BitVec 5) (s : State) : State := { s with cg := s.cg.write a v }

/-! ## Responses and errors (R97, R14) -/

/-- The status byte, also the value of `ST` (R98). -/
def Status.code : Status → Byte
  | .ok => 0x00#8
  | .errNoDevice => 0x01#8
  | .errCrcMismatch => 0x02#8
  | .errIllegal => 0x03#8

/-- Draw the display free: no cell, no glyph row and no cursor field is known afterwards. -/
def redraw (s : State) : State :=
  { s with
    dd := []
    cg := []
    curCol := Config.drawnCurCol (s.epoch + 1)
    curRow := Config.drawnCurRow (s.epoch + 1)
    curValid := Config.drawnCurValid (s.epoch + 1)
    epoch := s.epoch + 1 }

/-- After an UNDEFINED write no rule constrains the display (R14, R212): it is drawn free again at
every response. Otherwise nothing happens. -/
def settle (s : State) : State := if s.undef then redraw s else s

/-- Append a response and advance `CP` past a command of `len` bytes (R97, R22). `ST` is not written:
this is the response of `SYS.NOP` and `SYS.RDREG` (R240). -/
def emit (len : Nat) (status : Status) (payload : List Byte) (s : State) : State :=
  settle { s with rsp := s.rsp ++ status.code :: payload, cp := s.cp + len }

/-- `respond(status, payload...)` of every other operation: it also writes `ST` (R97, R24). -/
def respond (len : Nat) (status : Status) (payload : List Byte) (s : State) : State :=
  emit len status payload { s with st := status.code.extractLsb' 0 3 }

/-- `raise <Error>` (R14, R259): the operation stops here, state written so far stays written, and the
response has its full length with a zero payload of `pay` bytes. This is all an error does: nothing
is saved, no mode changes, there is no vector and no return (R250, R261). -/
def raise (len : Nat) (error : Status) (pay : Nat) (s : State) : State :=
  respond len error (List.replicate pay 0) s

/-- An illegal opcode byte is consumed alone, `ST <- 3`, response `03` (R100). -/
def illegalOpcode (s : State) : State := raise 1 .errIllegal 0 s

/-! ## Character writes (R203) -/

/-- The cursor names a cell of the grid, so that a character write is defined. With `CUR_VALID` = 1
the position is always inside the grid (R27). -/
def cursorDefined (s : State) : Bool :=
  !s.undef && s.curValid && decide (s.curCol.toNat < s.params.cols)
    && decide (s.curRow.toNat < s.params.rows)

/-- `PutChar(c)` (R203). Without a valid cursor it is UNDEFINED (R212): the model goes on, and what
the display holds is a free value from the response of this operation on (log 1). -/
def putChar (c : Byte) (s : State) : State :=
  if cursorDefined s then
    let s := writeDd (ddAddr s.params s.curRow.toNat s.curCol.toNat) c s
    if s.curCol.toNat = s.params.cols - 1 then invalidateCursor s
    else { s with curCol := s.curCol + 1 }
  else { s with undef := true }

/-- `PutChar` of each character, left to right (R207, R209, R210). -/
def putText : List Byte → State → State
  | [], s => s
  | c :: cs, s => putText cs (putChar c s)

/-- `DD[row][col + i] <- 0x20` for i = 0 .. len − 1 (R208). -/
def blankCells (row : Nat) : (len col : Nat) → State → State
  | 0, _, s => s
  | len + 1, col, s => blankCells row len (col + 1) (writeDd (ddAddr s.params row col) Config.blank s)

/-- `CG[slot][y] <- ry[4:0]` for each row byte from row y on (R204). -/
def loadRows (slot : Nat) : List Byte → Nat → State → State
  | [], _, s => s
  | r :: rs, y, s => loadRows slot rs (y + 1) (writeCg (cgAddr slot y) (r.extractLsb' 0 5) s)

/-! ## Registers (R33) -/

/-- The 8-bit value of register n, or `none` where no register has the number (R24 to R33). The two
cursor registers read as any byte while `CUR_VALID` = 0 (R27, U5). -/
def readReg (s : State) (n : Nat) : Option Byte :=
  match n with
  | 0 => some (s.st.zeroExtend 8)
  | 1 => some (s.resCfg.zeroExtend 8)
  | 2 => some (dctl s)
  | 3 => some (if s.curValid then s.curCol else Config.freeReadCol s.epoch s.cp)
  | 4 => some (if s.curValid then s.curRow else Config.freeReadRow s.epoch s.cp)
  | 5 => some (curst s)
  | 6 => some (s.ld.zeroExtend 8)
  | 7 => some (sflags s)
  | 8 => some s.rom.b0
  | 9 => some s.rom.b1
  | 10 => some s.rom.b2
  | 11 => some s.rom.b3
  | 12 => some s.rom.b4
  | 13 => some s.rom.b5
  | 14 => some s.rom.b6
  | 15 => some s.rom.b7
  | 16 => some (BitVec.ofNat 8 s.params.cols)
  | 17 => some (BitVec.ofNat 8 s.params.rows)
  | 18 => some (BitVec.ofNat 8 Config.nslots)
  | _ => none

end Sys2Proof.Machine
end

