-- ==== Sys2Proof/Machine/Bt.lean ====
section
/-! DEFINITION. BT: the bus transport (40_bus_transport.md). -/

namespace Sys2Proof.Machine

/-- `BT.RESET` (R121). -/
def execBtReset (s : State) : Host.Outcome State Fault Refusal :=
  .next (match lineReset s.line with
    | (true, l) => respond 1 .ok [] { s with line := l }
    | (false, l) => raise 1 .errNoDevice 0 { s with line := l })

/-- `BT.WRITE_BIT b` (R122). -/
def execBtWriteBit (b : Bool) (s : State) : Host.Outcome State Fault Refusal :=
  .next (respond 1 .ok [] { s with line := lineWrite s.params b s.line })

/-- `BT.READ_BIT` (R123). -/
def execBtReadBit (s : State) : Host.Outcome State Fault Refusal :=
  .next (match lineRead s.params s.line with
    | (v, l) => respond 1 .ok [flagByte v] { s with line := l })

/-- `BT.WRITE_BYTE v` (R124). -/
def execBtWriteByte (v : Byte) (s : State) : Host.Outcome State Fault Refusal :=
  .next (respond 2 .ok [] { s with line := writeByte s.params v s.line })

/-- `BT.READ_BYTE` (R125). -/
def execBtReadByte (s : State) : Host.Outcome State Fault Refusal :=
  .next (match readByte s.params s.line with
    | (v, l) => respond 1 .ok [v] { s with line := l })

end Sys2Proof.Machine
end

