-- ==== Sys2Proof/Machine/Ds.lean ====
section
/-! DEFINITION. DS: the device search (41_device_search.md). -/

namespace Sys2Proof.Machine

/-- How a round of the search ends (R145). -/
inductive RoundEnd where
  | noPresence
  | noAnswer
  | completed (t : Addr) (lastZero : Nat)
  deriving DecidableEq, Repr

/-- The branch taken at a collision at bit k (R147). -/
def collisionDir (rom : Addr) (ld k : Nat) : Bool :=
  if k < ld then addrBit rom k else decide (k = ld)

/-- The direction for the bit pair (b, c) at bit k, which is not (1, 1) (R146). -/
def pairDir (rom : Addr) (ld k : Nat) (b c : Bool) : Bool :=
  if b = c then collisionDir rom ld k else b

/-- `last_zero` after the bit pair (b, c) at bit k: k where a collision took branch 0 (R147). -/
def nextLastZero (rom : Addr) (ld k : Nat) (b c : Bool) (lastZero : Nat) : Nat :=
  if b = c ∧ collisionDir rom ld k = false then k else lastZero

/-- The bit steps of a round from bit k on, `left` of them (R145). -/
def roundBits (p : Params) (rom : Addr) (ld : Nat) :
    (left k lastZero : Nat) → Addr → Line → RoundEnd × Line
  | 0, _, lastZero, t, l => (.completed t lastZero, l)
  | left + 1, k, lastZero, t, l =>
    match lineRead p l with
    | (b, l) =>
      match lineRead p l with
      | (c, l) =>
        if b && c then (.noAnswer, l)
        else
          roundBits p rom ld left (k + 1) (nextLastZero rom ld k b c lastZero)
            (setAddrBit t k (pairDir rom ld k b c)) (lineWrite p (pairDir rom ld k b c) l)

/-- `Round()` (R145): reset, search command, 64 bit steps. Its commit is `commitRound` (R148). -/
def round (p : Params) (rom : Addr) (ld : Nat) (l : Line) : RoundEnd × Line :=
  match lineReset l with
  | (true, l) => roundBits p rom ld Config.addrBits 1 0 zeroAddr (writeByte p p.cmdSearch l)
  | (false, l) => (.noPresence, l)

/-- The loop of `DS.NEXT` (R143), at most `rounds` rounds. All it knows between two rounds is in
`ROM`, `LD` and `DONE`, so where it has not responded after that many, the same operation goes on in
the next step: `CP` has not moved (log 6). -/
def searchLoop : (rounds : Nat) → State → State
  | 0, s => s
  | rounds + 1, s =>
    if s.done then respond 1 .ok (0 :: zeroAddr.toList) s
    else
      match round s.params s.rom s.ld.toNat s.line with
      | (.noPresence, l) => raise 1 .errNoDevice 9 (endPass { s with line := l })
      | (.noAnswer, l) => raise 1 .errNoDevice 9 (endPass { s with line := l })
      | (.completed t lastZero, l) =>
        if addrValid t then
          respond 1 .ok (1 :: t.toList) (commitRound t lastZero { s with line := l })
        else
          searchLoop rounds
            (commitRound t lastZero { s with line := l, diag := s.diag ++ [t] })

/-- `DS.INIT` (R142). -/
def execDsInit (s : State) : Host.Outcome State Fault Refusal :=
  .next (respond 1 .ok [] (clearSearch s))

/-- `DS.NEXT` (R143). -/
def execDsNext (s : State) : Host.Outcome State Fault Refusal :=
  .next (searchLoop Config.roundsPerStep s)

/-- `DS.VERIFY a0..a7` (R151). -/
def execDsVerify (a : Addr) (s : State) : Host.Outcome State Fault Refusal :=
  .next (if addrValid a then respond 9 .ok [] s else raise 9 .errCrcMismatch 0 s)

end Sys2Proof.Machine
end

