-- ==== Sys2Proof/Machine/Lcd.lean ====
section
/-! DEFINITION. LCD: the character display (43_display.md). -/

namespace Sys2Proof.Machine

/-- `LCD.LOAD_GLYPH slot r0..r7` (R204). -/
def execLcdLoadGlyph (slot : Byte) (glyph : Bytes8) (s : State) :
    Host.Outcome State Fault Refusal :=
  .next (if slot.toNat ≥ Config.nslots then raise 10 .errIllegal 0 s
    else respond 10 .ok [] (invalidateCursor (loadRows slot.toNat glyph.toList 0 s)))

/-- `LCD.SET_CURSOR col row` (R205). -/
def execLcdSetCursor (col row : Byte) (s : State) : Host.Outcome State Fault Refusal :=
  .next (if col.toNat ≥ s.params.cols ∨ row.toNat ≥ s.params.rows then raise 3 .errIllegal 0 s
    else respond 3 .ok [] (setCursor col row s))

/-- `LCD.WRITE_CHAR c` (R206). -/
def execLcdWriteChar (c : Byte) (s : State) : Host.Outcome State Fault Refusal :=
  .next (respond 2 .ok [] (putChar c s))

/-- `LCD.PRINT n c1..cn` (R207). -/
def execLcdPrint (text : List Byte) (s : State) : Host.Outcome State Fault Refusal :=
  .next (respond (2 + text.length) .ok [] (putText text s))

/-- `LCD.CLEAR_REGION col row len` (R208). -/
def execLcdClearRegion (col row len : Byte) (s : State) : Host.Outcome State Fault Refusal :=
  .next (if col.toNat ≥ s.params.cols ∨ row.toNat ≥ s.params.rows
      ∨ col.toNat + len.toNat > s.params.cols then raise 4 .errIllegal 0 s
    else
      respond 4 .ok [] (setCursor col row (blankCells row.toNat len.toNat col.toNat s)))

/-- `LCD.PRINT_NUM lo hi` (R209). -/
def execLcdPrintNum (v : Half) (s : State) : Host.Outcome State Fault Refusal :=
  .next (respond 3 .ok [] (putText (numText (sext16 v)) s))

/-- `LCD.PRINT_TEMP ilo ihi flo fhi` (R210). -/
def execLcdPrintTemp (ti tf : Half) (s : State) : Host.Outcome State Fault Refusal :=
  .next (if tempPairIllegal (sext16 ti) (sext16 tf) then raise 5 .errIllegal 0 s
    else respond 5 .ok [] (putText (tempText (sext16 ti) (sext16 tf)) s))

/-- `LCD.CTRL d c` (R211). -/
def execLcdCtrl (d c : Bool) (s : State) : Host.Outcome State Fault Refusal :=
  .next (respond 1 .ok [] (setDisplayFlags d c s))

end Sys2Proof.Machine
end

