-- ==== Sys2Proof/Machine/Sd.lean ====
section
/-! DEFINITION. SD: the sensor sequences and the decoder (42_sensor_driver.md). -/

namespace Sys2Proof.Machine

/-- `SD.START_CONV a0..a7` (R173). The `res` byte is `RESCFG` under both statuses. -/
def execSdStartConv (a : Addr) (s : State) : Host.Outcome State Fault Refusal :=
  .next (match select s.params a s.line with
    | (true, l) =>
      respond 9 .ok [s.resCfg.zeroExtend 8]
        { s with line := writeByte s.params s.params.cmdConvert l }
    | (false, l) => respond 9 .errNoDevice [s.resCfg.zeroExtend 8] { s with line := l })

/-- `reg = S[1] ++ S[0]` (R177). -/
def scratchpadReg (sp : List Byte) : Half := halfOf (sp.getD 0 0) (sp.getD 1 0)

/-- `SD.READ_TEMP a0..a7` (R176). -/
def execSdReadTemp (a : Addr) (s : State) : Host.Outcome State Fault Refusal :=
  .next (match select s.params a s.line with
    | (true, l) =>
      match readBytes s.params s.params.spLen (writeByte s.params s.params.cmdReadSp l) with
      | (sp, l) =>
        if scratchpadValid sp then
          respond 9 .ok (tempPayload (decodeTemp s.params (scratchpadReg sp))) { s with line := l }
        else raise 9 .errCrcMismatch 4 { s with line := l }
    | (false, l) => raise 9 .errNoDevice 4 { s with line := l })

/-- `SD.DECODE lo hi` (R186). -/
def execSdDecode (reg : Half) (s : State) : Host.Outcome State Fault Refusal :=
  .next (respond 3 .ok (tempPayload (decodeTemp s.params reg)) s)

/-- `SD.WAIT res` (R175): the wait is an event delivered to the environment. -/
def execSdWait (res : BitVec 2) (s : State) : Host.Outcome State Fault Refusal :=
  .next (respond 1 .ok [] { s with line := lineWait s.params res s.line })

/-- `SD.SET_RES res` (R172). -/
def execSdSetRes (res : BitVec 2) (s : State) : Host.Outcome State Fault Refusal :=
  .next (respond 1 .ok [] { s with resCfg := res })

end Sys2Proof.Machine
end

