-- ==== Sys2Proof/Machine/Sys.lean ====
section
/-! DEFINITION. SYS: status and register read-out (44_system.md). -/

namespace Sys2Proof.Machine

/-- `SYS.NOP` (R241). -/
def execSysNop (s : State) : Host.Outcome State Fault Refusal :=
  .next (emit 1 .ok [] s)

/-- `SYS.RDREG n` (R242). -/
def execSysRdreg (n : Byte) (s : State) : Host.Outcome State Fault Refusal :=
  .next (match readReg s n.toNat with
    | some v => emit 2 .ok [v] s
    | none => emit 2 .errIllegal [0] s)

end Sys2Proof.Machine
end

