-- ==== Sys2Proof/Machine/Dispatch.lean ====
section
/-! DEFINITION. One arm per operation: the meaning each constructor of `Instr` has. -/

namespace Sys2Proof.Machine

def exec (i : Instr) (s : State) : Host.Outcome State Fault Refusal :=
  match i with
  | .sysNop => Sys2Proof.Machine.execSysNop s
  | .sysRdreg n => Sys2Proof.Machine.execSysRdreg n s
  | .btReset => Sys2Proof.Machine.execBtReset s
  | .btWriteBit b => Sys2Proof.Machine.execBtWriteBit b s
  | .btReadBit => Sys2Proof.Machine.execBtReadBit s
  | .btWriteByte v => Sys2Proof.Machine.execBtWriteByte v s
  | .btReadByte => Sys2Proof.Machine.execBtReadByte s
  | .dsInit => Sys2Proof.Machine.execDsInit s
  | .dsNext => Sys2Proof.Machine.execDsNext s
  | .dsVerify a => Sys2Proof.Machine.execDsVerify a s
  | .sdStartConv a => Sys2Proof.Machine.execSdStartConv a s
  | .sdReadTemp a => Sys2Proof.Machine.execSdReadTemp a s
  | .sdDecode reg => Sys2Proof.Machine.execSdDecode reg s
  | .sdWait res => Sys2Proof.Machine.execSdWait res s
  | .sdSetRes res => Sys2Proof.Machine.execSdSetRes res s
  | .lcdLoadGlyph slot glyph => Sys2Proof.Machine.execLcdLoadGlyph slot glyph s
  | .lcdSetCursor col row => Sys2Proof.Machine.execLcdSetCursor col row s
  | .lcdWriteChar c => Sys2Proof.Machine.execLcdWriteChar c s
  | .lcdPrint text => Sys2Proof.Machine.execLcdPrint text s
  | .lcdClearRegion col row len => Sys2Proof.Machine.execLcdClearRegion col row len s
  | .lcdPrintNum v => Sys2Proof.Machine.execLcdPrintNum v s
  | .lcdPrintTemp ti tf => Sys2Proof.Machine.execLcdPrintTemp ti tf s
  | .lcdCtrl d c => Sys2Proof.Machine.execLcdCtrl d c s

end Sys2Proof.Machine
end

