-- ==== Sys2Proof/Machine/Fetch.lean ====
section
/-! DEFINITION. The command bytes a step reads: fetching at `CP`, and how bytes get into the stream. -/

namespace Sys2Proof.Machine

/-- The unread bytes of the command stream, from the opcode byte on (R22, R106 step 1). -/
def fetchBytes (s : State) : List Byte := s.cmd.drop s.cp

/-- Put bytes at the command pointer in place of whatever the stream holds from there on. A stream
shorter than `CP` (no run reaches one) is filled up with zero bytes first. -/
def placeAtCp (bytes : List Byte) (s : State) : State :=
  { s with cmd := s.cmd.take s.cp ++ List.replicate (s.cp - s.cmd.length) 0 ++ bytes }

end Sys2Proof.Machine
end

