-- ==== Sys2Proof/Machine/Step.lean ====
section
/-! DEFINITION. One step: one operation of the command stream, from its opcode byte to its response
(R20, R106). -/

namespace Sys2Proof.Machine

/-- R106: read the command at `CP`; an illegal opcode byte responds `03` (R100); an incomplete command
has no step (R102); otherwise run the operation to its response. -/
def step (s : State) : Host.Outcome State Fault Refusal :=
  match decode (fetchBytes s) with
  | .command i _ => exec i s
  | .illegalOpcode _ => .next (illegalOpcode s)
  | .incomplete => .fault .awaitingCommand

/-- The host sends the table's word as the next command bytes (log 7). -/
def State.withFetchWord (s : State) (nbits w : Nat) : State := placeAtCp (tableBytes nbits w) s

end Sys2Proof.Machine
end

