-- ==== Sys2Proof/Machine/HostSide.lean ====
section
/-! DEFINITION. What the outside world can do to the machine: the `RST` input, the host's bytes, and
the host the source gives (the Orchestrator), as the contract of 70_reset_and_hazards.md states it.
`step` uses none of it: a run of the appliance interleaves these with steps. -/

namespace Sys2Proof.Machine

/-- The `RST` input (R280, R281): everything at its reset value, the unspecified values drawn anew,
both streams empty, the parameters as they are. `l` is the line as the reset finds it: the state's
own between operations, any line an abandoned operation has brought about during one. The devices are
not reset (R283). -/
def rst (l : Line) (s : State) : State :=
  { State.resetWith s.params with
    dispOn := Config.freeDispOn (s.epoch + 1)
    curVis := Config.freeCurVis (s.epoch + 1)
    curCol := Config.drawnCurCol (s.epoch + 1)
    curRow := Config.drawnCurRow (s.epoch + 1)
    epoch := s.epoch + 1
    line := pinHigh l }

/-- The host appends bytes to the command stream, ahead of responses if it likes (R286). -/
def send (bytes : List Byte) (s : State) : State := { s with cmd := s.cmd ++ bytes }

/-! ## Pseudo-operations (R105) -/

/-- `LCD.PUT_GLYPH slot`. -/
def putGlyph (slot : Byte) : List Instr := [.lcdWriteChar slot]

/-- `LCD.CLEAR_ROW row`. -/
def clearRow (p : Params) (row : Byte) : List Instr :=
  [.lcdClearRegion 0 row (BitVec.ofNat 8 p.cols)]

/-- `LCD.SUFFIX`: the degree glyph in slot 0, then "C". -/
def suffix : List Instr := [.lcdWriteChar 0, .lcdWriteChar 0x43#8]

/-- `SD.POLL addr` begins with this command. -/
def pollStart (a : Addr) : Instr := .sdStartConv a

/-- `SD.POLL addr` goes on with these, once the host has the first command's response: the wait is for
the resolution the response carries, never a remembered one (R300). -/
def pollRest (a : Addr) (response : List Byte) : List Instr :=
  [.sdWait ((response.getD 1 0).extractLsb' 0 2), .sdReadTemp a]

/-! ## The Orchestrator (R286 to R289) -/

/-- The host's own choices (R288): the numeric region, the slot of the degree glyph, and the commands
it sends once after a good startup reset (R285). -/
structure HostChoice where
  col0 : Byte
  row0 : Byte
  len0 : Byte
  glyphSlot : Byte
  boot : List Instr
  deriving DecidableEq, Repr

/-- Which command's response the host waits for. `halted`: it sends nothing more, ever (R286). -/
inductive HostPhase where
  | startup
  | halted
  | booting (left : List Instr)
  | freshPass
  | searching
  | converting (a : Addr)
  | waiting (a : Addr)
  | reading
  | clearing (ti tf : Half)
  | printing
  | suffixGlyph
  | suffixUnit
  deriving DecidableEq, Repr

/-- The first command of a host: one `BT.RESET` (R286). -/
def hostFirst : HostPhase × Option Instr := (.startup, some .btReset)

/-- After the boot commands, and after each pass: a fresh SearchState (R287). -/
def hostBoot : List Instr → HostPhase × Option Instr
  | [] => (.freshPass, some .dsInit)
  | i :: left => (.booting left, some i)

/-- Byte k of a response. -/
def respByte (r : List Byte) (k : Nat) : Byte := r.getD k 0

/-- The host takes one whole response and chooses its next command (R287, R288). Any non-zero status
inside the handling of a device drops that device and goes on with the pass (R289). -/
def hostNext (p : Params) (h : HostChoice) (phase : HostPhase) (r : List Byte) :
    HostPhase × Option Instr :=
  match phase with
  | .startup => if respByte r 0 = 0 then hostBoot h.boot else (.halted, none)
  | .halted => (.halted, none)
  | .booting left => hostBoot left
  | .freshPass => (.searching, some .dsNext)
  | .searching =>
    let a : Addr := ⟨respByte r 2, respByte r 3, respByte r 4, respByte r 5, respByte r 6,
      respByte r 7, respByte r 8, respByte r 9⟩
    if respByte r 1 = 0 then (.freshPass, some .dsInit)
    else if a.b0 = p.familyCode then (.converting a, some (.sdStartConv a))
    else (.searching, some .dsNext)
  | .converting a =>
    if respByte r 0 = 0 then (.waiting a, some (.sdWait ((respByte r 1).extractLsb' 0 2)))
    else (.searching, some .dsNext)
  | .waiting a =>
    if respByte r 0 = 0 then (.reading, some (.sdReadTemp a)) else (.searching, some .dsNext)
  | .reading =>
    if respByte r 0 = 0 then
      (.clearing (halfOf (respByte r 1) (respByte r 2)) (halfOf (respByte r 3) (respByte r 4)),
        some (.lcdClearRegion h.col0 h.row0 h.len0))
    else (.searching, some .dsNext)
  | .clearing ti tf =>
    if respByte r 0 = 0 then (.printing, some (.lcdPrintTemp ti tf))
    else (.searching, some .dsNext)
  | .printing =>
    if respByte r 0 = 0 then (.suffixGlyph, some (.lcdWriteChar h.glyphSlot))
    else (.searching, some .dsNext)
  | .suffixGlyph =>
    if respByte r 0 = 0 then (.suffixUnit, some (.lcdWriteChar 0x43#8))
    else (.searching, some .dsNext)
  | .suffixUnit => (.searching, some .dsNext)

end Sys2Proof.Machine
end

