-- ==== Sys2Proof/Machine/Picture.lean ====
section
/-! DEFINITION. Port `PIX`: the picture as a pure function of the state (R202). -/

namespace Sys2Proof.Machine

/-- `CGROM(c)[y]`: the blank is all off (R53); every other code is an uninterpreted parameter. -/
def cgrom (c : Byte) (y : Nat) : BitVec 5 := if c = Config.blank then 0 else Config.cgromRow c y

/-- `Glyph(c)[y]` (R201, R202). -/
def glyphRow (s : State) (c : Byte) (y : Nat) : BitVec 5 :=
  if c.toNat < Config.nslots then cgRow s (cgAddr c.toNat y) else cgrom c y

/-- The visible cursor stands at a cell. While `CUR_VALID` = 0 its place is unspecified (U6). -/
def cursorAt (s : State) (row col : Nat) : Bool :=
  if s.curValid then decide (row = s.curRow.toNat ∧ col = s.curCol.toNat)
  else decide (Config.strayCursor s.epoch s.cp = some (row, col))

/-- `Pixel(row, col, y, x)`, y top to bottom, x left to right (R202). -/
def pixel (s : State) (row col y x : Nat) : Bool :=
  s.dispOn &&
    ((glyphRow s (ddCell s (ddAddr s.params row col)) y).getLsbD (Config.glyphW - 1 - x)
      || (s.curVis && cursorAt s row col && Config.cursorShape y x))

end Sys2Proof.Machine
end

