-- ==== Sys2Proof/Safety.lean ====
section
/-! DEFINITION. What counts as a legal state and a safe run, and the terms the claims use: what an
operation answers, what it leaves alone, and the rows of the opcode table. -/

namespace Sys2Proof.Machine

/-- A scratchpad of `SP_LEN` bytes whose last one is the CRC-8 of the others: what R70 says of every
device of the reference environment. -/
def Device.sane (p : Params) (d : Device) : Bool :=
  decide (d.sp.length = p.spLen) && scratchpadValid d.sp

/-- Every device of the environment is as R70 says; an oracle is not constrained. -/
def Env.sane (p : Params) : Env → Bool
  | .oracle _ => true
  | .refEnv _ devices => devices.all (Device.sane p)

/-- The invariant of the spec's own rules: parameters as the rules ask, a legal status code (R24),
`LD` in 0..64 (R29), no discrepancy left once the pass is done (R143, R148), both display memories
canonical and inside their spaces (R50), the cursor inside the grid while it is valid (R27; not after
an UNDEFINED write, R212), the line released (R38), and the reference devices sane (R70). -/
structure Inv (s : State) : Prop where
  params   : s.params.wf = true
  status   : s.st.toNat ≤ 3
  ld       : s.ld.toNat ≤ 64
  done_ld  : s.done = true → s.ld = 0
  dd       : s.dd.wf (ddSize s.params) = true
  cg       : s.cg.wf cgSize = true
  cursor   : s.undef = false → s.curValid = true →
    s.curCol.toNat < s.params.cols ∧ s.curRow.toNat < s.params.rows
  released : s.line.pull = false
  devices  : s.line.env.sane s.params = true

/-- The display is constrained by the rules: no UNDEFINED write since reset (R212). A run is safe as
long as this holds. -/
def DisplayDefined (s : State) : Prop := s.undef = false

/-! ## What an operation answers -/

/-- From s to t one command of `len` bytes was consumed and one response appended (R97). -/
def Responded (len : Nat) (status : Byte) (payload : List Byte) (s t : State) : Prop :=
  t.cp = s.cp + len ∧ t.rsp = s.rsp ++ status :: payload

/-- The same for an operation other than `SYS.NOP` and `SYS.RDREG`: `ST` shows the status (R24). -/
def Completed (len : Nat) (status : Byte) (payload : List Byte) (s t : State) : Prop :=
  Responded len status payload s t ∧ t.st.zeroExtend 8 = status

/-! ## What an operation leaves alone -/

/-- `ROM`, `LD`, `DONE` are unchanged. -/
def SearchKept (s t : State) : Prop := t.rom = s.rom ∧ t.ld = s.ld ∧ t.done = s.done

/-- The command stream and the diagnostic port are unchanged. -/
def PortsKept (s t : State) : Prop := t.cmd = s.cmd ∧ t.diag = s.diag

/-- `CUR_COL`, `CUR_ROW`, `CUR_VALID` are unchanged. -/
def CursorKept (s t : State) : Prop :=
  t.curCol = s.curCol ∧ t.curRow = s.curRow ∧ t.curValid = s.curValid

/-- The cursors of two states agree: both valid at the same position, or both invalid. (The position
of an invalid cursor is unspecified, R27.) -/
def CursorAgrees (s t : State) : Prop :=
  t.curValid = s.curValid ∧
    (s.curValid = true → t.curCol = s.curCol ∧ t.curRow = s.curRow)

/-- Every `DD` cell reads as before. -/
def DdKept (s t : State) : Prop := ∀ a, ddCell t a = ddCell s a

/-- Every `CG` row reads as before. -/
def CgKept (s t : State) : Prop := ∀ a, cgRow t a = cgRow s a

/-- `DISP_ON` and `CUR_VIS` are unchanged. -/
def DisplayFlagsKept (s t : State) : Prop := t.dispOn = s.dispOn ∧ t.curVis = s.curVis

/-- The whole display is unchanged. After an UNDEFINED write no rule constrains the memories and the
cursor (R212), so of a state with `undef` only the two flags can be said to stay. -/
def DisplayKept (s t : State) : Prop :=
  DisplayFlagsKept s t ∧ t.undef = s.undef ∧
    (s.undef = false → CursorKept s t ∧ DdKept s t ∧ CgKept s t)

/-- Everything an LCD operation never touches: the line, the search, the resolution, the ports. -/
def NonDisplayKept (s t : State) : Prop :=
  t.line = s.line ∧ SearchKept s t ∧ t.resCfg = s.resCfg ∧ PortsKept s t

/-! ## Units (R2) -/

/-- The operations of unit LCD. -/
def isLcd : Instr → Bool
  | .lcdLoadGlyph _ _ | .lcdSetCursor _ _ | .lcdWriteChar _ | .lcdPrint _ | .lcdClearRegion _ _ _
  | .lcdPrintNum _ | .lcdPrintTemp _ _ | .lcdCtrl _ _ => true
  | _ => false

/-- The operations of unit SYS. -/
def isSys : Instr → Bool
  | .sysNop | .sysRdreg _ => true
  | _ => false

/-- The operations that touch the line or tell the environment of a wait (R312). -/
def usesLine : Instr → Bool
  | .btReset | .btWriteBit _ | .btReadBit | .btWriteByte _ | .btReadByte | .dsNext
  | .sdStartConv _ | .sdReadTemp _ | .sdWait _ => true
  | _ => false

/-- The bytes of a response, the status byte included (R99). -/
def responseLength : Instr → Nat
  | .sysNop => 1
  | .sysRdreg _ => 2
  | .btReset | .btWriteBit _ | .btWriteByte _ => 1
  | .btReadBit | .btReadByte => 2
  | .dsInit | .dsVerify _ => 1
  | .dsNext => 10
  | .sdStartConv _ => 2
  | .sdReadTemp _ | .sdDecode _ => 5
  | .sdWait _ | .sdSetRes _ => 1
  | .lcdLoadGlyph _ _ | .lcdSetCursor _ _ | .lcdWriteChar _ | .lcdPrint _ | .lcdClearRegion _ _ _
  | .lcdPrintNum _ | .lcdPrintTemp _ _ | .lcdCtrl _ _ => 1

/-! ## The opcode table -/

/-- The row of spec/opcode_table.json an operation belongs to: (mask, match) of its opcode byte. -/
def opcodeRow : Instr → Byte × Byte
  | .sysNop => (0xFF#8, 0x00#8)
  | .sysRdreg _ => (0xFF#8, 0x01#8)
  | .btReset => (0xFF#8, 0x10#8)
  | .btWriteBit _ => (0xFE#8, 0x12#8)
  | .btReadBit => (0xFF#8, 0x14#8)
  | .btWriteByte _ => (0xFF#8, 0x15#8)
  | .btReadByte => (0xFF#8, 0x16#8)
  | .dsInit => (0xFF#8, 0x20#8)
  | .dsNext => (0xFF#8, 0x21#8)
  | .dsVerify _ => (0xFF#8, 0x22#8)
  | .sdStartConv _ => (0xFF#8, 0x30#8)
  | .sdReadTemp _ => (0xFF#8, 0x32#8)
  | .sdDecode _ => (0xFF#8, 0x33#8)
  | .sdWait _ => (0xFC#8, 0x34#8)
  | .sdSetRes _ => (0xFC#8, 0x38#8)
  | .lcdLoadGlyph _ _ => (0xFF#8, 0x40#8)
  | .lcdSetCursor _ _ => (0xFF#8, 0x41#8)
  | .lcdWriteChar _ => (0xFF#8, 0x42#8)
  | .lcdPrint _ => (0xFF#8, 0x43#8)
  | .lcdClearRegion _ _ _ => (0xFF#8, 0x44#8)
  | .lcdPrintNum _ => (0xFF#8, 0x45#8)
  | .lcdPrintTemp _ _ => (0xFF#8, 0x46#8)
  | .lcdCtrl _ _ => (0xFC#8, 0x48#8)

/-- The (mask, match) pairs of all 23 rows of the table. -/
def opcodeRows : List (Byte × Byte) :=
  [(0xFF#8, 0x00#8), (0xFF#8, 0x01#8), (0xFF#8, 0x10#8), (0xFE#8, 0x12#8), (0xFF#8, 0x14#8),
   (0xFF#8, 0x15#8), (0xFF#8, 0x16#8), (0xFF#8, 0x20#8), (0xFF#8, 0x21#8), (0xFF#8, 0x22#8),
   (0xFF#8, 0x30#8), (0xFF#8, 0x32#8), (0xFF#8, 0x33#8), (0xFC#8, 0x34#8), (0xFC#8, 0x38#8)] ++
  [(0xFF#8, 0x40#8), (0xFF#8, 0x41#8), (0xFF#8, 0x42#8), (0xFF#8, 0x43#8), (0xFF#8, 0x44#8),
   (0xFF#8, 0x45#8), (0xFF#8, 0x46#8), (0xFC#8, 0x48#8)]

/-! ## Search and text -/

/-- The line events of a completed round, oldest first: the reset pulse, the search command, and for
each address bit the two bits read and the direction written (R145). -/
def roundEvents (p : Params) (b c dir : Nat → Bool) : List LineEvent :=
  .reset true :: (bitsOf p.cmdSearch).map LineEvent.write ++
    (List.range 64).flatMap (fun j => [.read (b (j + 1)), .read (c (j + 1)), .write (dir (j + 1))])

/-- `DS.NEXT` n times in a row. -/
def searchPass : Nat → State → Host.Outcome State Fault Refusal
  | 0, s => .next s
  | n + 1, s =>
    match exec .dsNext s with
    | .next t => searchPass n t
    | .fault f => .fault f
    | .refused r => .refused r

/-- The order of the enumeration: the first bit where two addresses differ is 0 in the lesser (R154). -/
def addrBefore (x y : Addr) : Prop :=
  ∃ k, 1 ≤ k ∧ k ≤ 64 ∧ (∀ j, 1 ≤ j → j < k → addrBit x j = addrBit y j) ∧
    addrBit x k = false ∧ addrBit y k = true

/-- The number a text of decimal digits stands for. -/
def decValue : List Byte → Nat → Nat
  | [], acc => acc
  | c :: cs, acc => decValue cs (10 * acc + (c.toNat - 0x30))

end Sys2Proof.Machine
end

