-- ==== Sys2Proof/Certificates/Slice0/Obligations.lean ====
section
/-! DEFINITION. The statements for the provers, each a rule of the spec about what an operation or the
machine does. Every statement about one operation says that `exec` answers a next state, what it is,
and what stays as it was. -/

open Sys2Proof Sys2Proof.Machine

/-! ## Reset and invariants -/

/-- R281: what a reset leaves, at power-on with any parameters and by `RST` at any time: also during
an operation, which is abandoned without a response. Of the unspecified values the statement says
nothing; the devices on the line are not reset (R283). Two clauses are the model's reading (log 13):
that an abandoned operation may have brought the line to any `l` (DEDUCED), and that the record of line
events goes on across a reset (DESIGN CHOICE). -/
def Obligations.ResetLeavesTheSpecifiedValues : Prop :=
  State.reset = State.resetWith {} ∧
  (∀ p : Params, (State.resetWith p).params = p ∧
    (State.resetWith p).st = 0 ∧ (State.resetWith p).resCfg = 3 ∧
    (State.resetWith p).curValid = false ∧ (State.resetWith p).ld = 0 ∧
    (State.resetWith p).done = false ∧ (State.resetWith p).rom = ⟨0, 0, 0, 0, 0, 0, 0, 0⟩ ∧
    (State.resetWith p).cp = 0 ∧ (State.resetWith p).cmd = [] ∧ (State.resetWith p).rsp = [] ∧
    (State.resetWith p).line.pull = false) ∧
  ∀ (l : Line) (s : State), (rst l s).params = s.params ∧
    (rst l s).st = 0 ∧ (rst l s).resCfg = 3 ∧ (rst l s).curValid = false ∧ (rst l s).ld = 0 ∧
      (rst l s).done = false ∧ (rst l s).rom = ⟨0, 0, 0, 0, 0, 0, 0, 0⟩ ∧ (rst l s).cp = 0 ∧
      (rst l s).cmd = [] ∧ (rst l s).rsp = [] ∧ (rst l s).line.pull = false ∧
      (rst l s).line.env = l.env ∧ (rst l s).line.events = l.events

/-- The state after power-on meets the invariant, with the default parameters and with any that are as
the rules ask, and so does the state after `RST` at any time, if the devices on the line are sane. -/
def Obligations.ResetMeetsTheInvariant : Prop :=
  Inv State.reset ∧ (∀ p : Params, p.wf = true → Inv (State.resetWith p)) ∧
  ∀ (l : Line) (s : State), s.params.wf = true → l.env.sane s.params = true → Inv (rst l s)

/-- Every step keeps the invariant (R24, R27, R29, R38, R41, R50, R70), from any state that meets it. -/
def Obligations.StepKeepsTheInvariant : Prop :=
  ∀ s t : State, Inv s → step s = .next t → Inv t

/-- R40, R9: no operation and no step writes the parameters, and no reset does. (That they stand in
State, as the one argument a step has, is the model's choice, log 9.) -/
def Obligations.NothingWritesTheParameters : Prop :=
  (∀ (i : Instr) (s t : State), exec i s = .next t → t.params = s.params) ∧
  (∀ s t : State, step s = .next t → t.params = s.params) ∧
  ∀ (l : Line) (s : State), (rst l s).params = s.params

/-- R41: only `DS.INIT` and `DS.NEXT` write the SearchState, and `DS.NEXT` never clears `DONE`. -/
def Obligations.OnlySearchOperationsWriteTheSearchState : Prop :=
  (∀ (i : Instr) (s t : State), i ≠ .dsInit → i ≠ .dsNext → exec i s = .next t → SearchKept s t) ∧
  (∀ s t : State, exec .dsNext s = .next t → s.done = true → t.done = true)

/-- R42: no BT, DS, SD (or SYS) operation writes the display, and no LCD operation touches the line or
the SearchState. After an UNDEFINED write the rules constrain only the two display flags. -/
def Obligations.DisplayAndLineAreIndependent : Prop :=
  (∀ (i : Instr) (s t : State), isLcd i = false → exec i s = .next t → DisplayKept s t) ∧
  (∀ (i : Instr) (s t : State), isLcd i = true → exec i s = .next t → NonDisplayKept s t)

/-- R24: every operation but `SYS.NOP` and `SYS.RDREG` leaves in `ST` the status byte it responded
with, which is 0 to 3; those two leave `ST` alone; it is 0 after reset and reads with zeros above its
three bits. The last alternative is the model's choice and not R24's (log 6, DESIGN CHOICE): a `DS.NEXT`
that has not responded yet after the most rounds one step runs has moved neither `CP` nor `ST`. -/
def Obligations.StatusRegisterShowsTheLastStatus : Prop :=
  State.reset.st = 0 ∧
  (∀ s : State, readReg s 0 = some (0#5 ++ s.st)) ∧
  ∀ (i : Instr) (s t : State), exec i s = .next t →
    (isSys i = true → t.st = s.st) ∧
    (isSys i = false →
      (∃ payload, t.rsp = s.rsp ++ t.st.zeroExtend 8 :: payload ∧ t.st.toNat ≤ 3) ∨
      (i = .dsNext ∧ t.cp = s.cp ∧ t.st = s.st ∧ t.rsp = s.rsp))

/-- R97, R99: every command that is executed moves `CP` past its bytes and gets exactly one response of
the length its opcode fixes, whatever the status. The one exception is the model's choice and not
R97's or R106's (log 6, DESIGN CHOICE): a `DS.NEXT` whose loop has not ended after the most rounds one
step runs goes on in the next step. -/
def Obligations.EveryCommandIsAnsweredOnce : Prop :=
  ∀ (i : Instr) (s t : State), exec i s = .next t →
    (t.cp = s.cp + (encode i).length ∧
      ∃ response : List Byte, t.rsp = s.rsp ++ response ∧ response.length = responseLength i) ∨
    (i = .dsNext ∧ t.cp = s.cp ∧ t.rsp = s.rsp)

/-- R54, R88: no step writes the command stream, moves `CP` back or takes a response back. -/
def Obligations.StreamsOnlyGoForward : Prop :=
  ∀ s t : State, step s = .next t →
    t.cmd = s.cmd ∧ s.cp ≤ t.cp ∧ t.cp ≤ s.cmd.length ∧ ∃ response, t.rsp = s.rsp ++ response

/-- Every operation has a next state in every state, and a step has none only where the command stream
ends before the last byte of a command (R102). The first half goes beyond R265 by two choices of the
model: a character write without a valid cursor, where R212 and R294 say that a model refuses, goes on
as U1 also allows (log 1, DESIGN CHOICE), and a `DS.NEXT` is cut after 2^64 rounds (log 6, DESIGN
CHOICE). -/
def Obligations.OnlyMissingBytesStopTheMachine : Prop :=
  (∀ (i : Instr) (s : State), ∃ t, exec i s = .next t) ∧
  (∀ s : State, (∃ t, step s = .next t) ∨
    (step s = .fault .awaitingCommand ∧ decode (s.cmd.drop s.cp) = .incomplete))

/-! ## Encoding -/

/-- Decoding the bytes of any well-formed command gives it back, with every operand at every value its
encoding admits, and leaves the bytes after it alone. -/
def Obligations.DecodeOfEncodeIsTheCommand : Prop :=
  ∀ (i : Instr) (rest : List Byte), i.wellFormed = true →
    decode (encode i ++ rest) = .command i rest

/-- Whatever bytes decode to a command are that command's encoding, and the command is well-formed. -/
def Obligations.DecodedBytesAreTheEncoding : Prop :=
  ∀ (bytes rest : List Byte) (i : Instr), decode bytes = .command i rest →
    i.wellFormed = true ∧ bytes = encode i ++ rest

/-- R94, R100: an opcode byte is illegal exactly where it matches no row of the opcode table, a byte
that decodes to an operation matches that operation's row, and no byte matches two rows. -/
def Obligations.DecoderFollowsTheOpcodeTable : Prop :=
  (∀ (op : Byte) (rest : List Byte),
    decode (op :: rest) = .illegalOpcode op ↔ ∀ r ∈ opcodeRows, op &&& r.1 ≠ r.2) ∧
  (∀ (op : Byte) (rest rest' : List Byte) (i : Instr), decode (op :: rest) = .command i rest' →
    op &&& (opcodeRow i).1 = (opcodeRow i).2) ∧
  opcodeRows.Pairwise (fun r q => ∀ op : Byte, ¬(op &&& r.1 = r.2 ∧ op &&& q.1 = q.2))

/-- Words written out from R94 and from 95_test_vectors.md section 2.1 decode to what they stand for. -/
def Obligations.SampleWordsDecode : Prop :=
  decode [0x01#8, 0x06#8] = .command (.sysRdreg 6) [] ∧
  decode [0x13#8] = .command (.btWriteBit true) [] ∧
  decode [0x21#8] = .command .dsNext [] ∧
  decode [0x3A#8] = .command (.sdSetRes 2) [] ∧
  decode [0x33#8, 0x91#8, 0x01#8] = .command (.sdDecode 0x0191#16) [] ∧
  decode [0x43#8, 0x02#8, 0x10#8, 0x21#8, 0x10#8] =
    .command (.lcdPrint [0x10#8, 0x21#8]) [0x10#8] ∧
  decode [0x11#8, 0x10#8] = .illegalOpcode 0x11#8

/-- R106: when the bytes at `CP` are the encoding of a well-formed command, a step is `exec` of that
command at that state and nothing else; an illegal opcode byte is answered instead; and bytes that end
inside a command give no step. -/
def Obligations.StepRunsTheDecodedCommand : Prop :=
  (∀ (s : State) (i : Instr) (rest : List Byte), i.wellFormed = true →
    s.cmd.drop s.cp = encode i ++ rest → step s = exec i s) ∧
  (∀ (s : State) (i : Instr) (rest : List Byte),
    decode (s.cmd.drop s.cp) = .command i rest → step s = exec i s) ∧
  (∀ (s : State) (op : Byte), decode (s.cmd.drop s.cp) = .illegalOpcode op →
    step s = .next (illegalOpcode s)) ∧
  (∀ s : State, decode (s.cmd.drop s.cp) = .incomplete → step s = .fault .awaitingCommand)

/-- R102: where the stream ends before the last byte of a command, the machine has no step. -/
def Obligations.IncompleteCommandHasNoStep : Prop :=
  ∀ (s : State) (i : Instr) (sent missing : List Byte), i.wellFormed = true →
    encode i = sent ++ missing → missing ≠ [] → s.cmd.drop s.cp = sent →
    step s = .fault .awaitingCommand

/-- R100: an opcode byte of no row of the table is consumed alone, `ST` becomes 3, the response is the
single byte 03, nothing else changes, and the bytes that follow are read as new commands. -/
def Obligations.IllegalOpcodeIsConsumedAlone : Prop :=
  ∀ (s : State) (op : Byte) (rest : List Byte), (∀ r ∈ opcodeRows, op &&& r.1 ≠ r.2) →
    s.cmd.drop s.cp = op :: rest →
    ∃ t, step s = .next t ∧ Completed 1 0x03#8 [] s t ∧ t.cmd.drop t.cp = rest ∧
      NonDisplayKept s t ∧ DisplayKept s t

/-! ## SYS -/

/-- R241: `SYS.NOP` responds `00` and writes `CP` only. -/
def Obligations.NopWritesOnlyTheCommandPointer : Prop :=
  encode .sysNop = [0x00#8] ∧
  ∀ s : State, ∃ t, exec .sysNop s = .next t ∧ Responded 1 0x00#8 [] s t ∧ t.st = s.st ∧
    NonDisplayKept s t ∧ DisplayKept s t

/-- R242: `SYS.RDREG n` responds with register n of R33 and writes `CP` only, not even `ST`. While
`CUR_VALID` = 0 registers 3 and 4 respond with some byte; registers 16 and 17 are `COLS` and `ROWS`,
which are at most 255 (R32); a number that no register has responds `ERR_ILLEGAL` with value 0. -/
def Obligations.RdregRespondsWithTheRegister : Prop :=
  (∀ n : Byte, encode (.sysRdreg n) = [0x01#8, n]) ∧
  (∀ (s : State) (n : Byte), n.toNat ≤ 18 →
    ∃ t v, exec (.sysRdreg n) s = .next t ∧ Responded 2 0x00#8 [v] s t ∧ t.st = s.st ∧
      NonDisplayKept s t ∧ DisplayKept s t ∧
      (n = 0 → v.toNat = s.st.toNat) ∧ (n = 1 → v.toNat = s.resCfg.toNat) ∧
      (n = 2 → v.toNat = 2 * s.dispOn.toNat + s.curVis.toNat) ∧
      (n = 3 → s.curValid = true → v = s.curCol) ∧ (n = 4 → s.curValid = true → v = s.curRow) ∧
      (n = 5 → v.toNat = s.curValid.toNat) ∧ (n = 6 → v.toNat = s.ld.toNat) ∧
      (n = 7 → v.toNat = s.done.toNat) ∧
      (∀ j, j < 8 → n.toNat = 8 + j → v = s.rom.toList.getD j 0) ∧
      (s.params.wf = true →
        (n = 16 → v.toNat = s.params.cols) ∧ (n = 17 → v.toNat = s.params.rows)) ∧
      (n = 18 → v.toNat = Config.nslots)) ∧
  ∀ (s : State) (n : Byte), n.toNat ≥ 19 →
    ∃ t, exec (.sysRdreg n) s = .next t ∧ Responded 2 0x03#8 [0x00#8] s t ∧ t.st = s.st ∧
      NonDisplayKept s t ∧ DisplayKept s t

/-! ## BT -/

/-- R121, R129: `BT.RESET` does one `LineReset` and nothing else on the line; it responds `00` where
the environment shows presence and `01` where it does not, in every environment; in the reference
environment every device waits for a command byte afterwards, whatever the response was. -/
def Obligations.BusResetReportsPresence : Prop :=
  encode .btReset = [0x10#8] ∧
  ∀ s : State, ∃ t p, exec .btReset s = .next t ∧ p = envPresence s.line.env s.line.events ∧
    Completed 1 (if p then 0x00#8 else 0x01#8) [] s t ∧
    t.line.events = .reset p :: s.line.events ∧ t.line.pull = false ∧
    SearchKept s t ∧ t.resCfg = s.resCfg ∧ PortsKept s t ∧ DisplayKept s t ∧
    ∀ (pullup : Bool) (devices : List Device), s.line.env = .refEnv pullup devices →
      p = (pullup && !devices.isEmpty) ∧
      t.line.env = .refEnv pullup (devices.map fun d => { d with mode := .romCmd 0 0 })

/-- R122: `BT.WRITE_BIT b` does one write slot with bit b and always responds `00`. -/
def Obligations.WriteBitIsOneWriteSlot : Prop :=
  encode (.btWriteBit false) = [0x12#8] ∧ encode (.btWriteBit true) = [0x13#8] ∧
  ∀ (s : State) (b : Bool), ∃ t, exec (.btWriteBit b) s = .next t ∧ Completed 1 0x00#8 [] s t ∧
    t.line.events = .write b :: s.line.events ∧ t.line.pull = false ∧
    t.line.env = envAfterWrite s.params b s.line.env ∧
    SearchKept s t ∧ t.resCfg = s.resCfg ∧ PortsKept s t ∧ DisplayKept s t

/-- R123: `BT.READ_BIT` does one read slot and responds with the bit sampled: in the reference
environment the AND of the pull-up and what the devices send, so 1 where no device is sending. -/
def Obligations.ReadBitIsOneReadSlot : Prop :=
  encode .btReadBit = [0x14#8] ∧
  ∀ s : State, ∃ t v, exec .btReadBit s = .next t ∧ v = envLevel s.line.env s.line.events ∧
    Completed 1 0x00#8 [if v then 0x01#8 else 0x00#8] s t ∧
    t.line.events = .read v :: s.line.events ∧ t.line.pull = false ∧
    t.line.env = envAfterRead s.params s.line.env ∧
    SearchKept s t ∧ t.resCfg = s.resCfg ∧ PortsKept s t ∧ DisplayKept s t ∧
    ∀ (pullup : Bool) (devices : List Device), s.line.env = .refEnv pullup devices →
      (v = true ↔ pullup = true ∧ ∀ d ∈ devices, devLevel d = true) ∧
      (pullup = true → (∀ d ∈ devices, d.mode = .idle) → v = true)

/-- R124: `BT.WRITE_BYTE v` does eight write slots, least significant bit first, and is for the line
the same as eight `BT.WRITE_BIT` in a row, in every environment. -/
def Obligations.WriteByteIsEightWriteSlots : Prop :=
  (∀ v : Byte, encode (.btWriteByte v) = [0x15#8, v]) ∧
  ∀ (s : State) (v : Byte), ∃ t, exec (.btWriteByte v) s = .next t ∧ Completed 2 0x00#8 [] s t ∧
    t.line.events =
      ((List.range 8).map (fun i => LineEvent.write (v.getLsbD i))).reverse ++ s.line.events ∧
    t.line.pull = false ∧
    t.line = (List.range 8).foldl (fun l i => lineWrite s.params (v.getLsbD i) l) s.line ∧
    SearchKept s t ∧ t.resCfg = s.resCfg ∧ PortsKept s t ∧ DisplayKept s t

/-- R125: `BT.READ_BYTE` does eight read slots, and bit i of its value is the i-th bit sampled; for the
line it is the same as eight `BT.READ_BIT` in a row, in every environment. With no device sending the
value is FF. -/
def Obligations.ReadByteIsEightReadSlots : Prop :=
  encode .btReadByte = [0x16#8] ∧
  ∀ s : State, ∃ t v, exec .btReadByte s = .next t ∧ Completed 1 0x00#8 [v] s t ∧
    t.line.events =
      ((List.range 8).map (fun i => LineEvent.read (v.getLsbD i))).reverse ++ s.line.events ∧
    t.line.pull = false ∧
    t.line = (List.range 8).foldl (fun l _ => (lineRead s.params l).2) s.line ∧
    SearchKept s t ∧ t.resCfg = s.resCfg ∧ PortsKept s t ∧ DisplayKept s t ∧
    ∀ devices : List Device, s.line.env = .refEnv true devices →
      (∀ d ∈ devices, d.mode = .idle) → v = 0xFF#8

/-! ## DS -/

/-- R142: `DS.INIT` empties the SearchState, with no line activity. -/
def Obligations.InitEmptiesTheSearchState : Prop :=
  encode .dsInit = [0x20#8] ∧
  ∀ s : State, ∃ t, exec .dsInit s = .next t ∧ Completed 1 0x00#8 [] s t ∧
    t.rom = ⟨0, 0, 0, 0, 0, 0, 0, 0⟩ ∧ t.ld = 0 ∧ t.done = false ∧
    t.line = s.line ∧ t.resCfg = s.resCfg ∧ PortsKept s t ∧ DisplayKept s t

/-- R143, R296: once the pass is done, `DS.NEXT` responds found = 0 with status `OK`, without line
activity and without changing anything else. -/
def Obligations.NextAfterThePassIsIdle : Prop :=
  encode .dsNext = [0x21#8] ∧
  ∀ s : State, s.done = true →
    ∃ t, exec .dsNext s = .next t ∧ Completed 1 0x00#8 (List.replicate 9 0x00#8) s t ∧
      NonDisplayKept s t ∧ DisplayKept s t

/-- R153: an empty bus shows no presence, and with no presence pulse `DS.NEXT` does one reset pulse and
no slot, ends the pass (`DONE` = 1, `LD` = 0, `ROM` kept) and responds `ERR_NO_DEVICE` with found = 0
and zeros; a later `DS.NEXT` responds found = 0 with status `OK` and no line activity. -/
def Obligations.NextWithoutPresenceEndsThePass : Prop :=
  (∀ (pullup : Bool) (events : List LineEvent), envPresence (.refEnv pullup []) events = false) ∧
  ∀ s : State, s.done = false → envPresence s.line.env s.line.events = false →
    ∃ t u, exec .dsNext s = .next t ∧ Completed 1 0x01#8 (List.replicate 9 0x00#8) s t ∧
      t.done = true ∧ t.ld = 0 ∧ t.rom = s.rom ∧
      t.line.events = .reset false :: s.line.events ∧
      t.resCfg = s.resCfg ∧ PortsKept s t ∧ DisplayKept s t ∧
      exec .dsNext t = .next u ∧ Completed 1 0x00#8 (List.replicate 9 0x00#8) t u ∧
      u.line = t.line ∧ u.done = true

/-- R146, R252, R258: a bit pair (1, 1) ends the round and the pass: `DONE` = 1, `LD` = 0, `ROM` kept,
`ERR_NO_DEVICE`, and the line is where the round left it. -/
def Obligations.NextWithoutAnswerEndsThePass : Prop :=
  ∀ (s : State) (l : Line), s.done = false → round s.params s.rom s.ld.toNat s.line = (.noAnswer, l) →
    ∃ t, exec .dsNext s = .next t ∧ Completed 1 0x01#8 (List.replicate 9 0x00#8) s t ∧
      t.done = true ∧ t.ld = 0 ∧ t.rom = s.rom ∧ t.line = l ∧
      t.resCfg = s.resCfg ∧ PortsKept s t ∧ DisplayKept s t

/-- R143, R148, R149: a completed round with a valid address commits it and yields it: `ROM` is the
address, `LD` the last collision where 0 was taken, `DONE` set exactly where there was none. -/
def Obligations.NextYieldsAValidAddress : Prop :=
  ∀ (s : State) (l : Line) (a : Addr) (lastZero : Nat), s.done = false →
    round s.params s.rom s.ld.toNat s.line = (.completed a lastZero, l) → addrValid a = true →
    ∃ t, exec .dsNext s = .next t ∧ Completed 1 0x00#8 (0x01#8 :: a.toList) s t ∧
      t.rom = a ∧ t.ld.toNat = lastZero ∧ (t.done = true ↔ lastZero = 0) ∧ t.line = l ∧
      t.resCfg = s.resCfg ∧ PortsKept s t ∧ DisplayKept s t

/-- R148, R149: the address of a completed round that fails its CRC is dropped, but committed all the
same and recorded on `DIAG`: a `DS.NEXT` that responds after such a round has done exactly what a
`DS.NEXT` does that starts from the committed SearchState. -/
def Obligations.DroppedAddressAdvancesTheSearch : Prop :=
  ∀ (s t : State) (l : Line) (a : Addr) (lastZero : Nat), s.done = false →
    round s.params s.rom s.ld.toNat s.line = (.completed a lastZero, l) → addrValid a = false →
    exec .dsNext s = .next t → t.cp ≠ s.cp →
    exec .dsNext
      { s with
        rom := a
        ld := BitVec.ofNat 7 lastZero
        done := decide (lastZero = 0)
        line := l
        diag := s.diag ++ [a] } = .next t

/-- R143, R149, R253: whatever the environment does, a `DS.NEXT` that responds has yielded an address
that is valid and now in `ROM`, or has ended the pass with found = 0 (status `OK`, or
`ERR_NO_DEVICE`); it never raises a CRC error, and every address it recorded on `DIAG` is invalid. -/
def Obligations.NextYieldsOrEndsThePass : Prop :=
  ∀ s t : State, exec .dsNext s = .next t → t.cp ≠ s.cp →
    (∃ dropped : List Addr, t.diag = s.diag ++ dropped ∧ ∀ a ∈ dropped, addrValid a = false) ∧
    ((t.rsp = s.rsp ++ 0x00#8 :: 0x01#8 :: t.rom.toList ∧ addrValid t.rom = true) ∨
      (t.rsp = s.rsp ++ 0x00#8 :: List.replicate 9 0x00#8 ∧ t.done = true) ∨
      (t.rsp = s.rsp ++ 0x01#8 :: List.replicate 9 0x00#8 ∧ t.done = true ∧ t.ld = 0))

/-- R145, R146, R147, R312: a completed round. There are 64 bit pairs (b k, c k), none of them (1, 1),
such that the line saw exactly one reset, the command byte and the 64 triples read, read, write; bit k
of the address is b k where the pair differs, and at a collision the previous address's bit (k < LD),
1 (k = LD) or 0 (k > LD); `last_zero` is the last collision where 0 was taken, or 0 if there is none. -/
def Obligations.RoundFollowsTheSearchRules : Prop :=
  ∀ (p : Params) (rom : Addr) (ld lastZero : Nat) (l l' : Line) (a : Addr),
    round p rom ld l = (.completed a lastZero, l') →
    ∃ b c : Nat → Bool,
      l'.events = (roundEvents p b c (addrBit a)).reverse ++ l.events ∧
      (∀ k, 1 ≤ k → k ≤ 64 → ¬(b k = true ∧ c k = true) ∧
        (b k ≠ c k → addrBit a k = b k) ∧
        (b k = c k → k < ld → addrBit a k = addrBit rom k) ∧
        (b k = c k → k = ld → addrBit a k = true) ∧
        (b k = c k → k > ld → addrBit a k = false)) ∧
      lastZero ≤ 64 ∧
      (lastZero ≠ 0 → b lastZero = c lastZero ∧ addrBit a lastZero = false) ∧
      (∀ k, lastZero < k → k ≤ 64 → b k = c k → addrBit a k = true)

/-- R312, R146, R153: a round cut short. With no presence the line saw one reset pulse; with a (1, 1)
pair at bit k, one reset, the command byte, k − 1 directions and 2k reads, the last two of them 1. -/
def Obligations.RoundCutShortCountsItsSlots : Prop :=
  ∀ (p : Params) (rom : Addr) (ld : Nat) (l l' : Line) (e : RoundEnd), round p rom ld l = (e, l') →
    (e = .noPresence → l'.events = .reset false :: l.events) ∧
    (e = .noAnswer → ∃ k new, 1 ≤ k ∧ k ≤ 64 ∧ l'.events = new ++ l.events ∧
      new.count (.reset true) = 1 ∧ new.count (.reset false) = 0 ∧
      new.count (.write true) + new.count (.write false) = 8 + (k - 1) ∧
      new.count (.read true) + new.count (.read false) = 2 * k ∧
      new.take 2 = [.read true, .read true])

/-- R61, R73, R145: in the reference environment with a pull-up and at least one device, a round from
any `ROM` and `LD` completes, and the address it assembles is the address of a device on the line. -/
def Obligations.RoundFindsADeviceOfTheLine : Prop :=
  ∀ (p : Params) (rom : Addr) (ld : Nat) (devices : List Device) (events : List LineEvent)
    (pull : Bool), devices ≠ [] →
    ∃ a lastZero l', round p rom ld ⟨pull, .refEnv true devices, events⟩ =
        (.completed a lastZero, l') ∧
      a ∈ devices.map Device.rom

/-- R152, R154, R301: one pass over the reference environment. With N ≥ 1 devices with distinct valid
addresses and an empty SearchState, N + 1 `DS.NEXT` respond with the N addresses, each once, in
increasing order of their bits, and then with found = 0; each round took 201 line primitives, and
nothing was dropped. -/
def Obligations.PassYieldsEveryDeviceOnce : Prop :=
  ∀ (s : State) (devices : List Device), devices ≠ [] → s.line.env = .refEnv true devices →
    (devices.map Device.rom).Nodup → (∀ d ∈ devices, addrValid d.rom = true) →
    s.rom = ⟨0, 0, 0, 0, 0, 0, 0, 0⟩ → s.ld = 0 → s.done = false →
    ∃ (t : State) (order : List Addr), searchPass (devices.length + 1) s = .next t ∧
      order.Perm (devices.map Device.rom) ∧ order.Pairwise addrBefore ∧
      t.rsp = s.rsp ++ order.flatMap (fun a => 0x00#8 :: 0x01#8 :: a.toList)
        ++ 0x00#8 :: List.replicate 9 0x00#8 ∧
      t.done = true ∧ t.diag = s.diag ∧
      t.line.events.length = s.line.events.length + 201 * devices.length

/-- R151: `DS.VERIFY` responds `00` where the CRC-8 of the first seven bytes is the eighth and `02`
where it is not, with no line activity. -/
def Obligations.VerifyChecksTheAddress : Prop :=
  (∀ a : Addr, encode (.dsVerify a) =
    [0x22#8, a.b0, a.b1, a.b2, a.b3, a.b4, a.b5, a.b6, a.b7]) ∧
  ∀ (s : State) (a : Addr), ∃ t, exec (.dsVerify a) s = .next t ∧
    Completed 9 (if crc8 [a.b0, a.b1, a.b2, a.b3, a.b4, a.b5, a.b6] = a.b7 then 0x00#8 else 0x02#8)
      [] s t ∧
    NonDisplayKept s t ∧ DisplayKept s t

/-- R156: an address verifies exactly where its eighth byte is the computed checksum, and flipping any
one of the 64 bits of a valid address makes it invalid. -/
def Obligations.CrcDetectsEverySingleBitError : Prop :=
  (∀ a : Addr, addrValid a = true ↔ a.b7 = crc8 [a.b0, a.b1, a.b2, a.b3, a.b4, a.b5, a.b6]) ∧
  ∀ (a a' : Addr) (k : Nat), addrValid a = true → 1 ≤ k → k ≤ 64 →
    addrBit a' k = !addrBit a k →
    (∀ j, 1 ≤ j → j ≤ 64 → j ≠ k → addrBit a' j = addrBit a j) →
    addrValid a' = false

/-- R150 (its consequences): zero bytes have CRC 0, and a block followed by its CRC-8 has CRC 0, so an
address is valid exactly where the CRC-8 of all eight bytes is 0. -/
def Obligations.CrcOfABlockWithItsCrcIsZero : Prop :=
  (∀ n : Nat, crc8 (List.replicate n 0x00#8) = 0x00#8) ∧
  (∀ block : List Byte, crc8 (block ++ [crc8 block]) = 0x00#8) ∧
  (∀ a : Addr, addrValid a = true ↔ crc8 a.toList = 0x00#8)

/-! ## SD -/

/-- R172, R303: `SD.SET_RES` writes `RESCFG` and nothing else, and the next `SD.START_CONV` responds
with it. -/
def Obligations.SetResIsSeenByTheNextStartConv : Prop :=
  encode (.sdSetRes 0) = [0x38#8] ∧ encode (.sdSetRes 1) = [0x39#8] ∧
  encode (.sdSetRes 2) = [0x3A#8] ∧ encode (.sdSetRes 3) = [0x3B#8] ∧
  ∀ (s : State) (res : BitVec 2), ∃ t, exec (.sdSetRes res) s = .next t ∧
    Completed 1 0x00#8 [] s t ∧ t.resCfg = res ∧
    t.line = s.line ∧ SearchKept s t ∧ PortsKept s t ∧ DisplayKept s t ∧
    ∀ a : Addr, ∃ u status, exec (.sdStartConv a) t = .next u ∧
      u.rsp = t.rsp ++ [status, res.zeroExtend 8]

/-- R173, R174: `SD.START_CONV` resets the line; with presence it sends the match command, the address
and the convert command (81 primitives) and responds `00`; without, it stops there and responds `01`.
Both responses carry `RESCFG`. -/
def Obligations.StartConvAddressesTheDevice : Prop :=
  (∀ a : Addr, encode (.sdStartConv a) = 0x30#8 :: a.toList) ∧
  ∀ (s : State) (a : Addr), ∃ t p, exec (.sdStartConv a) s = .next t ∧
    p = envPresence s.line.env s.line.events ∧
    Completed 9 (if p then 0x00#8 else 0x01#8) [s.resCfg.zeroExtend 8] s t ∧
    t.line.events =
      (if p then
        ((s.params.cmdMatch :: a.toList ++ [s.params.cmdConvert]).flatMap bitsOf |>.map
          LineEvent.write).reverse
        else []) ++ .reset p :: s.line.events ∧
    t.line.pull = false ∧ t.resCfg = s.resCfg ∧ SearchKept s t ∧ PortsKept s t ∧ DisplayKept s t

/-- R176: `SD.READ_TEMP`. Without presence: `01`, zeros, one reset pulse. With presence the match
command, the address and the read command are written and `SP_LEN` bytes are read; the response is `02`
with zeros where they do not check, and otherwise `00` with the decode of the register in the first two
bytes, low byte first. Nothing but `ST`, the line, `CP` and the response changes. -/
def Obligations.ReadTempReadsChecksAndDecodes : Prop :=
  (∀ a : Addr, encode (.sdReadTemp a) = 0x32#8 :: a.toList) ∧
  ∀ (s : State) (a : Addr), ∃ t, exec (.sdReadTemp a) s = .next t ∧
    t.line.pull = false ∧ t.resCfg = s.resCfg ∧ SearchKept s t ∧ PortsKept s t ∧ DisplayKept s t ∧
    (envPresence s.line.env s.line.events = false →
      Completed 9 0x01#8 (List.replicate 4 0x00#8) s t ∧
      t.line.events = .reset false :: s.line.events) ∧
    (envPresence s.line.env s.line.events = true →
      ∃ sp : List Byte, sp.length = s.params.spLen ∧
        t.line.events =
          (((s.params.cmdMatch :: a.toList ++ [s.params.cmdReadSp]).flatMap bitsOf).map LineEvent.write
            ++ (sp.flatMap bitsOf).map LineEvent.read).reverse
            ++ .reset true :: s.line.events ∧
        (crc8 sp.dropLast ≠ sp.getLastD 0 → Completed 9 0x02#8 (List.replicate 4 0x00#8) s t) ∧
        (crc8 sp.dropLast = sp.getLastD 0 →
          Completed 9 0x00#8 (tempPayload (decodeTemp s.params (sp.getD 1 0 ++ sp.getD 0 0))) s t))

/-- R176, R298 (corner cases): with presence, a line on which nothing answers gives `SD.READ_TEMP` nine
bytes FF (at the default `SP_LEN`) and `ERR_CRC_MISMATCH`; a line that reads 0 for ever gives it zero
bytes, which check, and (0, 0). On such a line `DS.NEXT` meets 64 collisions and yields the all-zero
address with `LD` = 64. The environments are those that answer presence and then the same level often
enough. -/
def Obligations.DeadLinePassesTheChecksOfZeros : Prop :=
  (∀ (s : State) (a : Addr) (later : List Bool), s.params.spLen = 9 →
    s.line.env = .oracle (true :: List.replicate 72 true ++ later) →
    ∃ t, exec (.sdReadTemp a) s = .next t ∧
      Completed 9 0x02#8 (List.replicate 4 0x00#8) s t) ∧
  (∀ (s : State) (a : Addr) (later : List Bool),
    s.line.env = .oracle (true :: List.replicate (8 * s.params.spLen) false ++ later) →
    ∃ t, exec (.sdReadTemp a) s = .next t ∧
      Completed 9 0x00#8 (List.replicate 4 0x00#8) s t) ∧
  ∀ (s : State) (later : List Bool), s.done = false → s.ld = 0 →
    s.line.env = .oracle (true :: List.replicate 128 false ++ later) →
    ∃ t, exec .dsNext s = .next t ∧
      Completed 1 0x00#8 (0x01#8 :: List.replicate 8 0x00#8) s t ∧
      t.rom = ⟨0, 0, 0, 0, 0, 0, 0, 0⟩ ∧ t.ld.toNat = 64 ∧ t.done = false

/-- R187: (a) the decoder loses nothing; (b) its parts never have opposite signs; (c) the fraction is a
multiple of 625 within ±9375 and the integer part within ±2048; (d) the integer part rounds toward
zero; (e) between −1 and 0 degrees the sign is carried by the fraction alone; (f) both results fit in
16 bits; (g) all four fraction bits are used, whatever the resolution. Register 0x8000 decodes to the
parameter `DECODE_MIN` (R189): law (a) leaves it out, as R187 does, and laws (b) to (g) cover it where
`DECODE_MIN` is the spec's default (log 8). -/
def Obligations.DecoderArithmeticLaws : Prop :=
  ∀ (p : Params) (reg : Half),
    (reg ≠ 0x8000#16 →
      (decodeTemp p reg).1 * 10000 + (decodeTemp p reg).2 = reg.toInt * 625) ∧
    (reg ≠ 0x8000#16 ∨ p.decodeMin = (-2048, 0) →
      (reg.toInt ≥ 0 → (decodeTemp p reg).1 ≥ 0 ∧ (decodeTemp p reg).2 ≥ 0) ∧
      (reg.toInt < 0 → (decodeTemp p reg).1 ≤ 0 ∧ (decodeTemp p reg).2 ≤ 0) ∧
      (decodeTemp p reg).2 % 625 = 0 ∧ (decodeTemp p reg).2.natAbs ≤ 9375 ∧
      (decodeTemp p reg).1.natAbs ≤ 2048 ∧
      (decodeTemp p reg).1 = Int.tdiv reg.toInt 16 ∧
      (-16 < reg.toInt → reg.toInt < 0 →
        (decodeTemp p reg).1 = 0 ∧ (decodeTemp p reg).2 < 0) ∧
      (-32768 ≤ (decodeTemp p reg).1 ∧ (decodeTemp p reg).1 ≤ 32767) ∧
      (-32768 ≤ (decodeTemp p reg).2 ∧ (decodeTemp p reg).2 ≤ 32767) ∧
      (decodeTemp p reg).2 = Int.tmod reg.toInt 16 * 625)

/-- R188: decoding r and −r gives exact negations of each other, for every r but 0x8000. -/
def Obligations.DecodeIsAnInvolutionOnSign : Prop :=
  ∀ (p : Params) (r : Half), r ≠ 0x8000#16 →
    decodeTemp p (BitVec.ofNat 16 (0x10000 - r.toNat)) =
      (-(decodeTemp p r).1, -(decodeTemp p r).2)

/-- R186, R99: `SD.DECODE` responds `00` and the two parts of the decode as 16-bit two's complement, low
byte first, so that the host reads them back exactly; nothing else changes. For register 0x8000 the
parts are the parameter `DECODE_MIN` (R189), which must fit in 16 bits to be read back. -/
def Obligations.DecodeRespondsWithBothParts : Prop :=
  (∀ reg : Half, encode (.sdDecode reg) = [0x33#8, reg.extractLsb' 0 8, reg.extractLsb' 8 8]) ∧
  ∀ (s : State) (reg : Half), ∃ t i0 i1 f0 f1, exec (.sdDecode reg) s = .next t ∧
    Completed 3 0x00#8 [i0, i1, f0, f1] s t ∧
    (reg ≠ 0x8000#16 ∨ s.params.wf = true →
      ((i1 ++ i0 : Half).toInt, (f1 ++ f0 : Half).toInt) = decodeTemp s.params reg) ∧
    NonDisplayKept s t ∧ DisplayKept s t

/-- R175: `SD.WAIT` responds `00`; no slot is sent and no state changes but the wait event delivered to
the environment. -/
def Obligations.WaitIsOneEventAndNoSlot : Prop :=
  encode (.sdWait 0) = [0x34#8] ∧ encode (.sdWait 1) = [0x35#8] ∧
  encode (.sdWait 2) = [0x36#8] ∧ encode (.sdWait 3) = [0x37#8] ∧
  ∀ (s : State) (res : BitVec 2), ∃ t, exec (.sdWait res) s = .next t ∧
    Completed 1 0x00#8 [] s t ∧ t.line.events = .wait res :: s.line.events ∧
    t.line.pull = s.line.pull ∧
    SearchKept s t ∧ t.resCfg = s.resCfg ∧ PortsKept s t ∧ DisplayKept s t

/-- R180, R63, R74: one reading over the reference environment. With a device of a given address on the
line, whatever else is there with another address, `SD.START_CONV`, a wait no shorter than the device's
conversion time and `SD.READ_TEMP` respond with the decode of the device's next temperature. The
command bytes are parameters: a device must be able to tell apart those it tells apart. -/
def Obligations.ReadingReturnsTheConvertedTemperature : Prop :=
  ∀ (s : State) (before after : List Device) (d : Device) (res : BitVec 2),
    s.params.wf = true → s.params.cmdMatch ≠ s.params.cmdSearch →
    s.params.cmdReadSp ≠ s.params.cmdConvert →
    s.line.env = .refEnv true (before ++ d :: after) → d.sane s.params = true →
    (∀ e ∈ before ++ after, e.rom ≠ d.rom) → s.params.tConv d.res ≤ s.params.tConv res →
    ∃ t1 t2 t3, exec (.sdStartConv d.rom) s = .next t1 ∧ exec (.sdWait res) t1 = .next t2 ∧
      exec (.sdReadTemp d.rom) t2 = .next t3 ∧
      Completed 9 0x00#8 (tempPayload (decodeTemp s.params d.nextTemp)) t2 t3

/-! ## LCD -/

/-- R204: `LCD.LOAD_GLYPH` of an existing slot writes that slot's eight rows (bits 7 to 5 of each row
byte ignored) and no other cell, and invalidates the cursor; of a slot that does not exist it responds
`ERR_ILLEGAL` and changes nothing. -/
def Obligations.LoadGlyphWritesItsSlot : Prop :=
  (∀ (slot : Byte) (g : Bytes8), encode (.lcdLoadGlyph slot g) =
    [0x40#8, slot, g.b0, g.b1, g.b2, g.b3, g.b4, g.b5, g.b6, g.b7]) ∧
  (∀ (s : State) (slot : Byte) (g : Bytes8), slot.toNat < Config.nslots →
    ∃ t, exec (.lcdLoadGlyph slot g) s = .next t ∧ Completed 10 0x00#8 [] s t ∧
      NonDisplayKept s t ∧ DisplayFlagsKept s t ∧ t.undef = s.undef ∧
      (s.undef = false →
        t.curValid = false ∧ DdKept s t ∧
        (∀ y, y < 8 → cgRow t (cgAddr slot.toNat y) = (g.toList.getD y 0).extractLsb' 0 5) ∧
        (∀ a, (∀ y, y < 8 → a ≠ cgAddr slot.toNat y) → cgRow t a = cgRow s a))) ∧
  ∀ (s : State) (slot : Byte) (g : Bytes8), slot.toNat ≥ Config.nslots →
    ∃ t, exec (.lcdLoadGlyph slot g) s = .next t ∧ Completed 10 0x03#8 [] s t ∧
      NonDisplayKept s t ∧ DisplayKept s t

/-- R205: `LCD.SET_CURSOR` inside the grid sets the cursor, valid, and changes no cell; outside it
responds `ERR_ILLEGAL` and the old cursor stays. -/
def Obligations.SetCursorMovesTheWriteHead : Prop :=
  (∀ col row : Byte, encode (.lcdSetCursor col row) = [0x41#8, col, row]) ∧
  (∀ (s : State) (col row : Byte), col.toNat < s.params.cols → row.toNat < s.params.rows →
    ∃ t, exec (.lcdSetCursor col row) s = .next t ∧ Completed 3 0x00#8 [] s t ∧
      NonDisplayKept s t ∧ DisplayFlagsKept s t ∧ t.undef = s.undef ∧
      (s.undef = false →
        t.curCol = col ∧ t.curRow = row ∧ t.curValid = true ∧ DdKept s t ∧ CgKept s t)) ∧
  ∀ (s : State) (col row : Byte), col.toNat ≥ s.params.cols ∨ row.toNat ≥ s.params.rows →
    ∃ t, exec (.lcdSetCursor col row) s = .next t ∧ Completed 3 0x03#8 [] s t ∧
      NonDisplayKept s t ∧ DisplayKept s t

/-- R203, R206: `LCD.WRITE_CHAR` at a valid cursor writes that cell and no other; the cursor moves one
column on, or becomes invalid after the last column, and its row never changes (`COLS` is at most 255,
R32, one of the things `Params.wf` asks). The first clause is for
every state: that an UNDEFINED write (no valid cursor) also responds `00` and leaves everything but the
display memories and the cursor is the model's choice (log 1, DESIGN CHOICE: R212 says that a model
refuses, U1 allows to go on). -/
def Obligations.WriteCharWritesOneCell : Prop :=
  (∀ c : Byte, encode (.lcdWriteChar c) = [0x42#8, c]) ∧
  (∀ (s : State) (c : Byte), ∃ t, exec (.lcdWriteChar c) s = .next t ∧
    Completed 2 0x00#8 [] s t ∧ NonDisplayKept s t ∧ DisplayFlagsKept s t) ∧
  ∀ (s : State) (c : Byte), s.params.wf = true → s.undef = false → s.curValid = true →
    s.curCol.toNat < s.params.cols → s.curRow.toNat < s.params.rows →
    ∃ t, exec (.lcdWriteChar c) s = .next t ∧ Completed 2 0x00#8 [] s t ∧
      NonDisplayKept s t ∧ DisplayFlagsKept s t ∧ t.undef = false ∧ CgKept s t ∧
      ddCell t (ddAddr s.params s.curRow.toNat s.curCol.toNat) = c ∧
      (∀ a, a ≠ ddAddr s.params s.curRow.toNat s.curCol.toNat → ddCell t a = ddCell s a) ∧
      t.curRow = s.curRow ∧
      (s.curCol.toNat = s.params.cols - 1 → t.curValid = false) ∧
      (s.curCol.toNat ≠ s.params.cols - 1 →
        t.curValid = true ∧ t.curCol.toNat = s.curCol.toNat + 1)

/-- R207: `LCD.PRINT` of a text that fits fills the cells from the cursor on with it and no other; the
cursor ends behind it, or invalid after an exact fit. The empty text changes nothing, whatever the
cursor. The first clause is for every state and text: that a text which runs into an UNDEFINED write
also responds `00` and leaves everything but the display memories and the cursor is the model's choice
(log 1, DESIGN CHOICE). -/
def Obligations.PrintFillsTheCells : Prop :=
  (∀ text : List Byte, encode (.lcdPrint text) = 0x43#8 :: BitVec.ofNat 8 text.length :: text) ∧
  (∀ (s : State) (text : List Byte), ∃ t, exec (.lcdPrint text) s = .next t ∧
    Completed (2 + text.length) 0x00#8 [] s t ∧ NonDisplayKept s t ∧ DisplayFlagsKept s t) ∧
  (∀ s : State, ∃ t, exec (.lcdPrint []) s = .next t ∧ Completed 2 0x00#8 [] s t ∧
    NonDisplayKept s t ∧ DisplayKept s t) ∧
  ∀ (s : State) (text : List Byte), s.params.wf = true → s.undef = false → s.curValid = true →
    s.curCol.toNat < s.params.cols → s.curRow.toNat < s.params.rows →
    s.curCol.toNat + text.length ≤ s.params.cols →
    ∃ t, exec (.lcdPrint text) s = .next t ∧ Completed (2 + text.length) 0x00#8 [] s t ∧
      NonDisplayKept s t ∧ DisplayFlagsKept s t ∧ t.undef = false ∧ CgKept s t ∧
      (∀ i, i < text.length →
        ddCell t (ddAddr s.params s.curRow.toNat (s.curCol.toNat + i)) = text.getD i 0) ∧
      (∀ a, (∀ i, i < text.length → a ≠ ddAddr s.params s.curRow.toNat (s.curCol.toNat + i)) →
        ddCell t a = ddCell s a) ∧
      (s.curCol.toNat + text.length = s.params.cols → t.curValid = false) ∧
      (s.curCol.toNat + text.length < s.params.cols →
        t.curValid = true ∧ t.curRow = s.curRow ∧
          t.curCol.toNat = s.curCol.toNat + text.length)

/-- R212 and U1 of 93_implementation_defined.md, read as a model that goes on (the model's choice, log 1;
`undef` is its own field): a character write is UNDEFINED exactly where the cursor is invalid, so a
non-empty text is where the cursor is invalid or the text does not fit in the rest of the row. The
response is `00` all the same, the line, the search and the display flags stay, and once a write was
UNDEFINED every later one is. -/
def Obligations.UndefinedWritesTouchTheDisplayOnly : Prop :=
  (∀ (s : State) (text : List Byte), s.params.wf = true → text ≠ [] → s.undef = false →
    (s.curValid = true → s.curCol.toNat < s.params.cols ∧ s.curRow.toNat < s.params.rows) →
    ∃ t, exec (.lcdPrint text) s = .next t ∧ Completed (2 + text.length) 0x00#8 [] s t ∧
      NonDisplayKept s t ∧ DisplayFlagsKept s t ∧
      (t.undef = true ↔ s.curValid = false ∨ s.curCol.toNat + text.length > s.params.cols)) ∧
  (∀ (s : State) (c : Byte), s.undef = true ∨ s.curValid = false →
    ∃ t, exec (.lcdWriteChar c) s = .next t ∧ Completed 2 0x00#8 [] s t ∧
      NonDisplayKept s t ∧ DisplayFlagsKept s t ∧ t.undef = true) ∧
  ∀ (i : Instr) (s t : State), s.undef = true → exec i s = .next t → t.undef = true

/-- R208: `LCD.CLEAR_REGION` inside one row blanks its cells and no other, and returns the cursor to
the region start, valid, whatever the cursor was; a region that starts outside the grid or passes the
row end responds `ERR_ILLEGAL` and changes nothing. -/
def Obligations.ClearRegionBlanksItsCells : Prop :=
  (∀ col row len : Byte, encode (.lcdClearRegion col row len) = [0x44#8, col, row, len]) ∧
  (∀ (s : State) (col row len : Byte), col.toNat < s.params.cols → row.toNat < s.params.rows →
    col.toNat + len.toNat ≤ s.params.cols →
    ∃ t, exec (.lcdClearRegion col row len) s = .next t ∧ Completed 4 0x00#8 [] s t ∧
      NonDisplayKept s t ∧ DisplayFlagsKept s t ∧ t.undef = s.undef ∧
      (s.undef = false →
        t.curCol = col ∧ t.curRow = row ∧ t.curValid = true ∧ CgKept s t ∧
        (∀ i, i < len.toNat → ddCell t (ddAddr s.params row.toNat (col.toNat + i)) = 0x20#8) ∧
        (∀ a, (∀ i, i < len.toNat → a ≠ ddAddr s.params row.toNat (col.toNat + i)) →
          ddCell t a = ddCell s a))) ∧
  ∀ (s : State) (col row len : Byte),
    col.toNat ≥ s.params.cols ∨ row.toNat ≥ s.params.rows ∨ col.toNat + len.toNat > s.params.cols →
    ∃ t, exec (.lcdClearRegion col row len) s = .next t ∧ Completed 4 0x03#8 [] s t ∧
      NonDisplayKept s t ∧ DisplayKept s t

/-- R213: no remnants. After `LCD.CLEAR_REGION` and a print of at most its length, the region holds the
text and then blanks, whatever it held before. -/
def Obligations.ClearThenPrintLeavesNoRemnants : Prop :=
  ∀ (s : State) (col row len : Byte) (text : List Byte), s.params.wf = true → s.undef = false →
    col.toNat < s.params.cols → row.toNat < s.params.rows → col.toNat + len.toNat ≤ s.params.cols →
    text.length ≤ len.toNat →
    ∃ t u, exec (.lcdClearRegion col row len) s = .next t ∧ exec (.lcdPrint text) t = .next u ∧
      u.undef = false ∧
      ∀ i, i < len.toNat → ddCell u (ddAddr s.params row.toNat (col.toNat + i)) = text.getD i 0x20#8

/-- R16: `dec(n)` is the decimal digits of n without leading zeros, "0" for 0, and `dec4(n)` is exactly
four digits of n up to 9999. -/
def Obligations.DecimalTextIsTheNumber : Prop :=
  (∀ n : Nat, decValue (dec n) 0 = n ∧
    (∀ c ∈ dec n, 0x30 ≤ c.toNat ∧ c.toNat ≤ 0x39) ∧ (n ≠ 0 → (dec n).head? ≠ some 0x30#8)) ∧
  dec 0 = [0x30#8] ∧
  (∀ n : Nat, n ≤ 9999 → decValue (dec4 n) 0 = n ∧ (dec4 n).length = 4 ∧
    ∀ c ∈ dec4 n, 0x30 ≤ c.toNat ∧ c.toNat ≤ 0x39)

/-- R209: `LCD.PRINT_NUM` puts on the display what `LCD.PRINT` of the number's text puts there: a minus
sign for a negative number, then the decimal digits of its absolute value, 1 to 6 characters. The
cursor positions are compared where `CUR_VALID` = 1 (R27). That both go on where the text runs into an
UNDEFINED write is the model's choice (log 1, DESIGN CHOICE). -/
def Obligations.PrintNumPrintsTheNumber : Prop :=
  (∀ v : Half, encode (.lcdPrintNum v) = [0x45#8, v.extractLsb' 0 8, v.extractLsb' 8 8]) ∧
  ∀ (s : State) (v : Half), ∃ t u text,
    text = (if v.toInt < 0 then [0x2D#8] else []) ++ dec v.toInt.natAbs ∧
    1 ≤ text.length ∧ text.length ≤ 6 ∧
    exec (.lcdPrintNum v) s = .next t ∧ exec (.lcdPrint text) s = .next u ∧
    Completed 3 0x00#8 [] s t ∧ NonDisplayKept s t ∧ DisplayFlagsKept s t ∧
    t.undef = u.undef ∧ (u.undef = false → CursorAgrees u t ∧ DdKept u t ∧ CgKept u t)

/-- R210: `LCD.PRINT_TEMP` of a pair a decode can produce puts on the display what `LCD.PRINT` of
"-val.frac" puts there: one minus sign if either part is negative, the integer part, a point, and
exactly four digits of the fraction. A fraction above 9999 or parts of opposite sign respond
`ERR_ILLEGAL` and change nothing. The cursor positions are compared where `CUR_VALID` = 1 (R27). That
both go on where the text runs into an UNDEFINED write is the model's choice (log 1, DESIGN CHOICE). -/
def Obligations.PrintTempPrintsThePair : Prop :=
  (∀ ti tf : Half, encode (.lcdPrintTemp ti tf) =
    [0x46#8, ti.extractLsb' 0 8, ti.extractLsb' 8 8, tf.extractLsb' 0 8, tf.extractLsb' 8 8]) ∧
  (∀ (s : State) (ti tf : Half), tf.toInt.natAbs ≤ 9999 →
    ¬(ti.toInt > 0 ∧ tf.toInt < 0) → ¬(ti.toInt < 0 ∧ tf.toInt > 0) →
    ∃ t u text,
      text = (if ti.toInt < 0 ∨ tf.toInt < 0 then [0x2D#8] else []) ++ dec ti.toInt.natAbs
        ++ [0x2E#8] ++ dec4 tf.toInt.natAbs ∧
      6 ≤ text.length ∧ text.length ≤ 11 ∧
      exec (.lcdPrintTemp ti tf) s = .next t ∧ exec (.lcdPrint text) s = .next u ∧
      Completed 5 0x00#8 [] s t ∧ NonDisplayKept s t ∧ DisplayFlagsKept s t ∧
      t.undef = u.undef ∧ (u.undef = false → CursorAgrees u t ∧ DdKept u t ∧ CgKept u t)) ∧
  ∀ (s : State) (ti tf : Half),
    tf.toInt.natAbs > 9999 ∨ (ti.toInt > 0 ∧ tf.toInt < 0) ∨ (ti.toInt < 0 ∧ tf.toInt > 0) →
    ∃ t, exec (.lcdPrintTemp ti tf) s = .next t ∧ Completed 5 0x03#8 [] s t ∧
      NonDisplayKept s t ∧ DisplayKept s t

/-- R211: `LCD.CTRL d c` sets the two display flags and changes neither cells nor cursor. -/
def Obligations.CtrlSetsTheDisplayFlags : Prop :=
  encode (.lcdCtrl false false) = [0x48#8] ∧ encode (.lcdCtrl false true) = [0x49#8] ∧
  encode (.lcdCtrl true false) = [0x4A#8] ∧ encode (.lcdCtrl true true) = [0x4B#8] ∧
  ∀ (s : State) (d c : Bool), ∃ t, exec (.lcdCtrl d c) s = .next t ∧ Completed 1 0x00#8 [] s t ∧
    t.dispOn = d ∧ t.curVis = c ∧ NonDisplayKept s t ∧ t.undef = s.undef ∧
    (s.undef = false → CursorKept s t ∧ DdKept s t ∧ CgKept s t)

/-- R52, R202, R204: with the display on and no visible cursor, every cell whose code names a slot shows
the new bitmap from the end of the `LCD.LOAD_GLYPH` on, bit 4 of a row leftmost. -/
def Obligations.LoadedGlyphShowsAtOnce : Prop :=
  ∀ (s : State) (slot : Byte) (g : Bytes8) (row col y x : Nat), slot.toNat < Config.nslots →
    s.undef = false → s.dispOn = true → s.curVis = false →
    ddCell s (ddAddr s.params row col) = slot → y < 8 → x < 5 →
    ∃ t, exec (.lcdLoadGlyph slot g) s = .next t ∧
      pixel t row col y x = (g.toList.getD y 0).getLsbD (4 - x)

/-- R202, R53: the picture of any cell is R202's formula, where the cursor is valid or not visible: the
bit of the cell's glyph (a custom slot, the dark blank, or the uninterpreted `CGROM`), and the shape of
the visible cursor added to its own cell and to no other, all of it only with the display on. So with
the display off every pixel is off, while the memories stay, and a blank is dark without a visible
cursor, whatever `CUR_VALID` is. (The place of a visible cursor while `CUR_VALID` = 0 is unspecified,
U6, log 10.) -/
def Obligations.PictureShowsBlanksAndTheCursor : Prop :=
  (∀ (s : State) (row col y x : Nat), s.curValid = true ∨ s.curVis = false →
    pixel s row col y x =
      (s.dispOn &&
        ((if (ddCell s (ddAddr s.params row col)).toNat < Config.nslots then
            cgRow s (cgAddr (ddCell s (ddAddr s.params row col)).toNat y)
          else if ddCell s (ddAddr s.params row col) = 0x20#8 then 0#5
          else Config.cgromRow (ddCell s (ddAddr s.params row col)) y).getLsbD (4 - x)
        || (s.curVis && decide (row = s.curRow.toNat ∧ col = s.curCol.toNat)
          && Config.cursorShape y x)))) ∧
  (∀ (s : State) (c : Bool) (row col y x : Nat), ∃ t, exec (.lcdCtrl false c) s = .next t ∧
    pixel t row col y x = false ∧ (s.undef = false → DdKept s t ∧ CgKept s t)) ∧
  (∀ (s : State) (row col y x : Nat), s.curVis = false →
    ddCell s (ddAddr s.params row col) = 0x20#8 → pixel s row col y x = false)
end

