-- ==== Sys2Proof/Laws/Line.lean ====
section
/-! SUPPORT. What the line primitives do, each said once: the events they add, that the line ends
released, and that the reference devices stay sane. -/

namespace Sys2Proof.Machine

/-! ## The primitives -/

@[simp] theorem lineReset_fst (l : Line) : (lineReset l).1 = envPresence l.env l.events := rfl
@[simp] theorem lineReset_pull (l : Line) : (lineReset l).2.pull = false := rfl
@[simp] theorem lineReset_env (l : Line) : (lineReset l).2.env = envAfterReset l.env := rfl
@[simp] theorem lineReset_events (l : Line) :
    (lineReset l).2.events = .reset (envPresence l.env l.events) :: l.events := rfl

@[simp] theorem lineWrite_pull (p : Params) (b : Bool) (l : Line) : (lineWrite p b l).pull = false := rfl
@[simp] theorem lineWrite_env (p : Params) (b : Bool) (l : Line) :
    (lineWrite p b l).env = envAfterWrite p b l.env := rfl
@[simp] theorem lineWrite_events (p : Params) (b : Bool) (l : Line) :
    (lineWrite p b l).events = .write b :: l.events := rfl

@[simp] theorem lineRead_fst (p : Params) (l : Line) : (lineRead p l).1 = envLevel l.env l.events := rfl
@[simp] theorem lineRead_pull (p : Params) (l : Line) : (lineRead p l).2.pull = false := rfl
@[simp] theorem lineRead_env (p : Params) (l : Line) :
    (lineRead p l).2.env = envAfterRead p l.env := rfl
@[simp] theorem lineRead_events (p : Params) (l : Line) :
    (lineRead p l).2.events = .read (envLevel l.env l.events) :: l.events := rfl

@[simp] theorem lineWait_pull (p : Params) (res : BitVec 2) (l : Line) :
    (lineWait p res l).pull = l.pull := rfl
@[simp] theorem lineWait_env (p : Params) (res : BitVec 2) (l : Line) :
    (lineWait p res l).env = envAfterWait p res l.env := rfl
@[simp] theorem lineWait_events (p : Params) (res : BitVec 2) (l : Line) :
    (lineWait p res l).events = .wait res :: l.events := rfl

/-! ## Transfers: events -/

theorem writeBits_events (p : Params) (bs : List Bool) (l : Line) :
    (writeBits p bs l).events = (bs.map LineEvent.write).reverse ++ l.events := by
  induction bs generalizing l with
  | nil => rfl
  | cons b bs ih => simp [writeBits, ih]

theorem writeByte_events (p : Params) (v : Byte) (l : Line) :
    (writeByte p v l).events = ((bitsOf v).map LineEvent.write).reverse ++ l.events :=
  writeBits_events _ _ _

theorem writeBytes_events (p : Params) (vs : List Byte) (l : Line) :
    (writeBytes p vs l).events = ((vs.flatMap bitsOf).map LineEvent.write).reverse ++ l.events := by
  induction vs generalizing l with
  | nil => rfl
  | cons v vs ih => simp [writeBytes, ih, writeByte_events]

/-! ## Transfers: what holds before and after -/

/-- A property of lines that every primitive keeps is kept by every transfer. -/
structure LineKept (p : Params) (P : Line → Prop) : Prop where
  reset : ∀ l, P l → P (lineReset l).2
  write : ∀ b l, P l → P (lineWrite p b l)
  read  : ∀ l, P l → P (lineRead p l).2

variable {P : Line → Prop} {p : Params}

theorem LineKept.writeBits (h : LineKept p P) (bs : List Bool) (l : Line) (hl : P l) :
    P (writeBits p bs l) := by
  induction bs generalizing l with
  | nil => exact hl
  | cons b bs ih => exact ih _ (h.write b l hl)

theorem LineKept.writeByte (h : LineKept p P) (v : Byte) (l : Line) (hl : P l) :
    P (writeByte p v l) := h.writeBits _ l hl

theorem LineKept.writeBytes (h : LineKept p P) (vs : List Byte) (l : Line) (hl : P l) :
    P (writeBytes p vs l) := by
  induction vs generalizing l with
  | nil => exact hl
  | cons v vs ih => exact ih _ (h.writeByte v l hl)

theorem LineKept.readBitsFrom (h : LineKept p P) (n i : Nat) (v : Byte) (l : Line) (hl : P l) :
    P (readBitsFrom p n i v l).2 := by
  induction n generalizing i v l with
  | zero => exact hl
  | succ n ih => exact ih _ _ _ (h.read l hl)

theorem LineKept.readByte (h : LineKept p P) (l : Line) (hl : P l) : P (readByte p l).2 :=
  h.readBitsFrom 8 0 0 l hl

theorem LineKept.readBytes (h : LineKept p P) (n : Nat) (l : Line) (hl : P l) :
    P (readBytes p n l).2 := by
  induction n generalizing l with
  | zero => exact hl
  | succ n ih => exact ih _ (h.readByte l hl)

theorem LineKept.select (h : LineKept p P) (a : Addr) (l : Line) (hl : P l) :
    P (select p a l).2 := by
  have hr := h.reset l hl
  unfold Sys2Proof.Machine.select
  split <;> rename_i heq <;> rw [heq] at hr
  · exact h.writeBytes _ _ hr
  · exact hr

theorem LineKept.roundBits (h : LineKept p P) (rom : Addr) (ld left k lz : Nat) (t : Addr) (l : Line)
    (hl : P l) : P (roundBits p rom ld left k lz t l).2 := by
  induction left generalizing k lz t l with
  | zero => exact hl
  | succ left ih =>
    have h2 := h.read _ (h.read l hl)
    simp only [Sys2Proof.Machine.roundBits]
    split
    · exact h2
    · exact ih _ _ _ _ (h.write _ _ h2)

theorem LineKept.round (h : LineKept p P) (rom : Addr) (ld : Nat) (l : Line) (hl : P l) :
    P (round p rom ld l).2 := by
  have hr := h.reset l hl
  unfold Sys2Proof.Machine.round
  split <;> rename_i heq <;> rw [heq] at hr
  · exact h.roundBits _ _ _ _ _ _ _ (h.writeByte _ _ hr)
  · exact hr

/-- Every primitive leaves the line released (R38, R128). -/
theorem released_kept (p : Params) : LineKept p (fun l => l.pull = false) where
  reset _ _ := rfl
  write _ _ _ := rfl
  read _ _ := rfl

/-! ## The reference devices stay sane (R70) -/

@[simp] theorem devReset_sane (p : Params) (d : Device) : (devReset d).sane p = d.sane p := rfl

@[simp] theorem devWrite_sane (p : Params) (b : Bool) (d : Device) :
    (devWrite p b d).sane p = d.sane p := by
  unfold devWrite
  split <;> try rfl
  split
  · rfl
  · split
    · rfl
    · split <;> rfl

@[simp] theorem devAfterRead_sane (p : Params) (d : Device) :
    (devAfterRead p d).sane p = d.sane p := rfl

/-- A block followed by its CRC-8 checks (R177). -/
@[simp] theorem scratchpadValid_concat (body : List Byte) :
    scratchpadValid (body ++ [crc8 body]) = true := by
  simp [scratchpadValid]

/-- A finished conversion leaves a scratchpad of the same length with its CRC (R74). -/
theorem devWait_sane (p : Params) (hp : 3 ≤ p.spLen) (res : BitVec 2) (d : Device)
    (h : d.sane p = true) : (devWait p res d).sane p = true := by
  unfold devWait
  split
  · simp only [Device.sane, scratchpadValid_concat, Bool.and_eq_true, decide_eq_true_eq] at h ⊢
    obtain ⟨h1, -⟩ := h
    simp only [List.length_append, List.length_cons, List.length_drop, List.length_dropLast, h1,
      List.length_nil]
    exact ⟨by omega, trivial⟩
  · exact h

theorem Env.sane_map (p : Params) (f : Device → Device)
    (hf : ∀ d, d.sane p = true → (f d).sane p = true)
    (pullup : Bool) (ds : List Device) (h : (Env.refEnv pullup ds).sane p = true) :
    (Env.refEnv pullup (ds.map f)).sane p = true := by
  simp only [Env.sane, List.all_eq_true, List.mem_map] at h ⊢
  rintro _ ⟨d, hd, rfl⟩
  exact hf d (h d hd)

theorem sane_kept (p : Params) : LineKept p (fun l => l.env.sane p = true) where
  reset l h := by
    cases he : l.env with
    | oracle _ => simp [he, envAfterReset, Env.sane]
    | refEnv pullup ds =>
      rw [he] at h
      simpa [he, envAfterReset] using Env.sane_map p devReset (by simp) pullup ds h
  write b l h := by
    cases he : l.env with
    | oracle _ => simp [he, envAfterWrite, Env.sane]
    | refEnv pullup ds =>
      rw [he] at h
      simpa [he, envAfterWrite] using Env.sane_map p (devWrite p b) (by simp) pullup ds h
  read l h := by
    cases he : l.env with
    | oracle _ => simp [he, envAfterRead, Env.sane]
    | refEnv pullup ds =>
      rw [he] at h
      simpa [he, envAfterRead] using Env.sane_map p (devAfterRead p) (by simp) pullup ds h

theorem lineWait_sane (p : Params) (hp : 3 ≤ p.spLen) (res : BitVec 2) (l : Line)
    (h : l.env.sane p = true) : (lineWait p res l).env.sane p = true := by
  cases he : l.env with
  | oracle _ => simp [he, envAfterWait, Env.sane]
  | refEnv pullup ds =>
    rw [he] at h
    simpa [he, envAfterWait] using Env.sane_map p (devWait p res) (devWait_sane p hp res) pullup ds h

end Sys2Proof.Machine
end

