-- ==== Sys2Proof/Laws/State.lean ====
section
/-! SUPPORT. What each named update of the state leaves in each field, one lemma per field per update,
so that no proof unfolds a record update. -/

namespace Sys2Proof.Machine

variable (s : State)

/-! ## setCursor -/

@[simp] theorem setCursor_params (col row : Byte) : (setCursor col row s).params = s.params := rfl
@[simp] theorem setCursor_st (col row : Byte) : (setCursor col row s).st = s.st := rfl
@[simp] theorem setCursor_resCfg (col row : Byte) : (setCursor col row s).resCfg = s.resCfg := rfl
@[simp] theorem setCursor_dispOn (col row : Byte) : (setCursor col row s).dispOn = s.dispOn := rfl
@[simp] theorem setCursor_curVis (col row : Byte) : (setCursor col row s).curVis = s.curVis := rfl
@[simp] theorem setCursor_curCol (col row : Byte) : (setCursor col row s).curCol = col := rfl
@[simp] theorem setCursor_curRow (col row : Byte) : (setCursor col row s).curRow = row := rfl
@[simp] theorem setCursor_curValid (col row : Byte) : (setCursor col row s).curValid = true := rfl
@[simp] theorem setCursor_ld (col row : Byte) : (setCursor col row s).ld = s.ld := rfl
@[simp] theorem setCursor_done (col row : Byte) : (setCursor col row s).done = s.done := rfl
@[simp] theorem setCursor_rom (col row : Byte) : (setCursor col row s).rom = s.rom := rfl
@[simp] theorem setCursor_dd (col row : Byte) : (setCursor col row s).dd = s.dd := rfl
@[simp] theorem setCursor_cg (col row : Byte) : (setCursor col row s).cg = s.cg := rfl
@[simp] theorem setCursor_cp (col row : Byte) : (setCursor col row s).cp = s.cp := rfl
@[simp] theorem setCursor_cmd (col row : Byte) : (setCursor col row s).cmd = s.cmd := rfl
@[simp] theorem setCursor_rsp (col row : Byte) : (setCursor col row s).rsp = s.rsp := rfl
@[simp] theorem setCursor_diag (col row : Byte) : (setCursor col row s).diag = s.diag := rfl
@[simp] theorem setCursor_line (col row : Byte) : (setCursor col row s).line = s.line := rfl
@[simp] theorem setCursor_undef (col row : Byte) : (setCursor col row s).undef = s.undef := rfl
@[simp] theorem setCursor_epoch (col row : Byte) : (setCursor col row s).epoch = s.epoch := rfl

/-! ## invalidateCursor -/

@[simp] theorem invalidateCursor_params : (invalidateCursor s).params = s.params := rfl
@[simp] theorem invalidateCursor_st : (invalidateCursor s).st = s.st := rfl
@[simp] theorem invalidateCursor_resCfg : (invalidateCursor s).resCfg = s.resCfg := rfl
@[simp] theorem invalidateCursor_dispOn : (invalidateCursor s).dispOn = s.dispOn := rfl
@[simp] theorem invalidateCursor_curVis : (invalidateCursor s).curVis = s.curVis := rfl
@[simp] theorem invalidateCursor_curCol : (invalidateCursor s).curCol = s.curCol := rfl
@[simp] theorem invalidateCursor_curRow : (invalidateCursor s).curRow = s.curRow := rfl
@[simp] theorem invalidateCursor_curValid : (invalidateCursor s).curValid = false := rfl
@[simp] theorem invalidateCursor_ld : (invalidateCursor s).ld = s.ld := rfl
@[simp] theorem invalidateCursor_done : (invalidateCursor s).done = s.done := rfl
@[simp] theorem invalidateCursor_rom : (invalidateCursor s).rom = s.rom := rfl
@[simp] theorem invalidateCursor_dd : (invalidateCursor s).dd = s.dd := rfl
@[simp] theorem invalidateCursor_cg : (invalidateCursor s).cg = s.cg := rfl
@[simp] theorem invalidateCursor_cp : (invalidateCursor s).cp = s.cp := rfl
@[simp] theorem invalidateCursor_cmd : (invalidateCursor s).cmd = s.cmd := rfl
@[simp] theorem invalidateCursor_rsp : (invalidateCursor s).rsp = s.rsp := rfl
@[simp] theorem invalidateCursor_diag : (invalidateCursor s).diag = s.diag := rfl
@[simp] theorem invalidateCursor_line : (invalidateCursor s).line = s.line := rfl
@[simp] theorem invalidateCursor_undef : (invalidateCursor s).undef = s.undef := rfl
@[simp] theorem invalidateCursor_epoch : (invalidateCursor s).epoch = s.epoch := rfl

/-! ## clearSearch -/

@[simp] theorem clearSearch_params : (clearSearch s).params = s.params := rfl
@[simp] theorem clearSearch_st : (clearSearch s).st = s.st := rfl
@[simp] theorem clearSearch_resCfg : (clearSearch s).resCfg = s.resCfg := rfl
@[simp] theorem clearSearch_dispOn : (clearSearch s).dispOn = s.dispOn := rfl
@[simp] theorem clearSearch_curVis : (clearSearch s).curVis = s.curVis := rfl
@[simp] theorem clearSearch_curCol : (clearSearch s).curCol = s.curCol := rfl
@[simp] theorem clearSearch_curRow : (clearSearch s).curRow = s.curRow := rfl
@[simp] theorem clearSearch_curValid : (clearSearch s).curValid = s.curValid := rfl
@[simp] theorem clearSearch_ld : (clearSearch s).ld = 0 := rfl
@[simp] theorem clearSearch_done : (clearSearch s).done = false := rfl
@[simp] theorem clearSearch_rom : (clearSearch s).rom = zeroAddr := rfl
@[simp] theorem clearSearch_dd : (clearSearch s).dd = s.dd := rfl
@[simp] theorem clearSearch_cg : (clearSearch s).cg = s.cg := rfl
@[simp] theorem clearSearch_cp : (clearSearch s).cp = s.cp := rfl
@[simp] theorem clearSearch_cmd : (clearSearch s).cmd = s.cmd := rfl
@[simp] theorem clearSearch_rsp : (clearSearch s).rsp = s.rsp := rfl
@[simp] theorem clearSearch_diag : (clearSearch s).diag = s.diag := rfl
@[simp] theorem clearSearch_line : (clearSearch s).line = s.line := rfl
@[simp] theorem clearSearch_undef : (clearSearch s).undef = s.undef := rfl
@[simp] theorem clearSearch_epoch : (clearSearch s).epoch = s.epoch := rfl

/-! ## commitRound -/

@[simp] theorem commitRound_params (t : Addr) (lastZero : Nat) :
    (commitRound t lastZero s).params = s.params := rfl
@[simp] theorem commitRound_st (t : Addr) (lastZero : Nat) :
    (commitRound t lastZero s).st = s.st := rfl
@[simp] theorem commitRound_resCfg (t : Addr) (lastZero : Nat) :
    (commitRound t lastZero s).resCfg = s.resCfg := rfl
@[simp] theorem commitRound_dispOn (t : Addr) (lastZero : Nat) :
    (commitRound t lastZero s).dispOn = s.dispOn := rfl
@[simp] theorem commitRound_curVis (t : Addr) (lastZero : Nat) :
    (commitRound t lastZero s).curVis = s.curVis := rfl
@[simp] theorem commitRound_curCol (t : Addr) (lastZero : Nat) :
    (commitRound t lastZero s).curCol = s.curCol := rfl
@[simp] theorem commitRound_curRow (t : Addr) (lastZero : Nat) :
    (commitRound t lastZero s).curRow = s.curRow := rfl
@[simp] theorem commitRound_curValid (t : Addr) (lastZero : Nat) :
    (commitRound t lastZero s).curValid = s.curValid := rfl
@[simp] theorem commitRound_ld (t : Addr) (lastZero : Nat) :
    (commitRound t lastZero s).ld = BitVec.ofNat 7 lastZero := rfl
@[simp] theorem commitRound_done (t : Addr) (lastZero : Nat) :
    (commitRound t lastZero s).done = (if lastZero = 0 then true else s.done) := rfl
@[simp] theorem commitRound_rom (t : Addr) (lastZero : Nat) :
    (commitRound t lastZero s).rom = t := rfl
@[simp] theorem commitRound_dd (t : Addr) (lastZero : Nat) :
    (commitRound t lastZero s).dd = s.dd := rfl
@[simp] theorem commitRound_cg (t : Addr) (lastZero : Nat) :
    (commitRound t lastZero s).cg = s.cg := rfl
@[simp] theorem commitRound_cp (t : Addr) (lastZero : Nat) :
    (commitRound t lastZero s).cp = s.cp := rfl
@[simp] theorem commitRound_cmd (t : Addr) (lastZero : Nat) :
    (commitRound t lastZero s).cmd = s.cmd := rfl
@[simp] theorem commitRound_rsp (t : Addr) (lastZero : Nat) :
    (commitRound t lastZero s).rsp = s.rsp := rfl
@[simp] theorem commitRound_diag (t : Addr) (lastZero : Nat) :
    (commitRound t lastZero s).diag = s.diag := rfl
@[simp] theorem commitRound_line (t : Addr) (lastZero : Nat) :
    (commitRound t lastZero s).line = s.line := rfl
@[simp] theorem commitRound_undef (t : Addr) (lastZero : Nat) :
    (commitRound t lastZero s).undef = s.undef := rfl
@[simp] theorem commitRound_epoch (t : Addr) (lastZero : Nat) :
    (commitRound t lastZero s).epoch = s.epoch := rfl

/-! ## endPass -/

@[simp] theorem endPass_params : (endPass s).params = s.params := rfl
@[simp] theorem endPass_st : (endPass s).st = s.st := rfl
@[simp] theorem endPass_resCfg : (endPass s).resCfg = s.resCfg := rfl
@[simp] theorem endPass_dispOn : (endPass s).dispOn = s.dispOn := rfl
@[simp] theorem endPass_curVis : (endPass s).curVis = s.curVis := rfl
@[simp] theorem endPass_curCol : (endPass s).curCol = s.curCol := rfl
@[simp] theorem endPass_curRow : (endPass s).curRow = s.curRow := rfl
@[simp] theorem endPass_curValid : (endPass s).curValid = s.curValid := rfl
@[simp] theorem endPass_ld : (endPass s).ld = 0 := rfl
@[simp] theorem endPass_done : (endPass s).done = true := rfl
@[simp] theorem endPass_rom : (endPass s).rom = s.rom := rfl
@[simp] theorem endPass_dd : (endPass s).dd = s.dd := rfl
@[simp] theorem endPass_cg : (endPass s).cg = s.cg := rfl
@[simp] theorem endPass_cp : (endPass s).cp = s.cp := rfl
@[simp] theorem endPass_cmd : (endPass s).cmd = s.cmd := rfl
@[simp] theorem endPass_rsp : (endPass s).rsp = s.rsp := rfl
@[simp] theorem endPass_diag : (endPass s).diag = s.diag := rfl
@[simp] theorem endPass_line : (endPass s).line = s.line := rfl
@[simp] theorem endPass_undef : (endPass s).undef = s.undef := rfl
@[simp] theorem endPass_epoch : (endPass s).epoch = s.epoch := rfl

/-! ## setDisplayFlags -/

@[simp] theorem setDisplayFlags_params (d c : Bool) : (setDisplayFlags d c s).params = s.params := rfl
@[simp] theorem setDisplayFlags_st (d c : Bool) : (setDisplayFlags d c s).st = s.st := rfl
@[simp] theorem setDisplayFlags_resCfg (d c : Bool) :
    (setDisplayFlags d c s).resCfg = s.resCfg := rfl
@[simp] theorem setDisplayFlags_dispOn (d c : Bool) : (setDisplayFlags d c s).dispOn = d := rfl
@[simp] theorem setDisplayFlags_curVis (d c : Bool) : (setDisplayFlags d c s).curVis = c := rfl
@[simp] theorem setDisplayFlags_curCol (d c : Bool) :
    (setDisplayFlags d c s).curCol = s.curCol := rfl
@[simp] theorem setDisplayFlags_curRow (d c : Bool) :
    (setDisplayFlags d c s).curRow = s.curRow := rfl
@[simp] theorem setDisplayFlags_curValid (d c : Bool) :
    (setDisplayFlags d c s).curValid = s.curValid := rfl
@[simp] theorem setDisplayFlags_ld (d c : Bool) : (setDisplayFlags d c s).ld = s.ld := rfl
@[simp] theorem setDisplayFlags_done (d c : Bool) : (setDisplayFlags d c s).done = s.done := rfl
@[simp] theorem setDisplayFlags_rom (d c : Bool) : (setDisplayFlags d c s).rom = s.rom := rfl
@[simp] theorem setDisplayFlags_dd (d c : Bool) : (setDisplayFlags d c s).dd = s.dd := rfl
@[simp] theorem setDisplayFlags_cg (d c : Bool) : (setDisplayFlags d c s).cg = s.cg := rfl
@[simp] theorem setDisplayFlags_cp (d c : Bool) : (setDisplayFlags d c s).cp = s.cp := rfl
@[simp] theorem setDisplayFlags_cmd (d c : Bool) : (setDisplayFlags d c s).cmd = s.cmd := rfl
@[simp] theorem setDisplayFlags_rsp (d c : Bool) : (setDisplayFlags d c s).rsp = s.rsp := rfl
@[simp] theorem setDisplayFlags_diag (d c : Bool) : (setDisplayFlags d c s).diag = s.diag := rfl
@[simp] theorem setDisplayFlags_line (d c : Bool) : (setDisplayFlags d c s).line = s.line := rfl
@[simp] theorem setDisplayFlags_undef (d c : Bool) : (setDisplayFlags d c s).undef = s.undef := rfl
@[simp] theorem setDisplayFlags_epoch (d c : Bool) : (setDisplayFlags d c s).epoch = s.epoch := rfl

/-! ## writeDd -/

@[simp] theorem writeDd_params (a : Nat) (v : Byte) : (writeDd a v s).params = s.params := rfl
@[simp] theorem writeDd_st (a : Nat) (v : Byte) : (writeDd a v s).st = s.st := rfl
@[simp] theorem writeDd_resCfg (a : Nat) (v : Byte) : (writeDd a v s).resCfg = s.resCfg := rfl
@[simp] theorem writeDd_dispOn (a : Nat) (v : Byte) : (writeDd a v s).dispOn = s.dispOn := rfl
@[simp] theorem writeDd_curVis (a : Nat) (v : Byte) : (writeDd a v s).curVis = s.curVis := rfl
@[simp] theorem writeDd_curCol (a : Nat) (v : Byte) : (writeDd a v s).curCol = s.curCol := rfl
@[simp] theorem writeDd_curRow (a : Nat) (v : Byte) : (writeDd a v s).curRow = s.curRow := rfl
@[simp] theorem writeDd_curValid (a : Nat) (v : Byte) : (writeDd a v s).curValid = s.curValid := rfl
@[simp] theorem writeDd_ld (a : Nat) (v : Byte) : (writeDd a v s).ld = s.ld := rfl
@[simp] theorem writeDd_done (a : Nat) (v : Byte) : (writeDd a v s).done = s.done := rfl
@[simp] theorem writeDd_rom (a : Nat) (v : Byte) : (writeDd a v s).rom = s.rom := rfl
@[simp] theorem writeDd_dd (a : Nat) (v : Byte) : (writeDd a v s).dd = s.dd.write a v := rfl
@[simp] theorem writeDd_cg (a : Nat) (v : Byte) : (writeDd a v s).cg = s.cg := rfl
@[simp] theorem writeDd_cp (a : Nat) (v : Byte) : (writeDd a v s).cp = s.cp := rfl
@[simp] theorem writeDd_cmd (a : Nat) (v : Byte) : (writeDd a v s).cmd = s.cmd := rfl
@[simp] theorem writeDd_rsp (a : Nat) (v : Byte) : (writeDd a v s).rsp = s.rsp := rfl
@[simp] theorem writeDd_diag (a : Nat) (v : Byte) : (writeDd a v s).diag = s.diag := rfl
@[simp] theorem writeDd_line (a : Nat) (v : Byte) : (writeDd a v s).line = s.line := rfl
@[simp] theorem writeDd_undef (a : Nat) (v : Byte) : (writeDd a v s).undef = s.undef := rfl
@[simp] theorem writeDd_epoch (a : Nat) (v : Byte) : (writeDd a v s).epoch = s.epoch := rfl

/-! ## writeCg -/

@[simp] theorem writeCg_params (a : Nat) (v : BitVec 5) : (writeCg a v s).params = s.params := rfl
@[simp] theorem writeCg_st (a : Nat) (v : BitVec 5) : (writeCg a v s).st = s.st := rfl
@[simp] theorem writeCg_resCfg (a : Nat) (v : BitVec 5) : (writeCg a v s).resCfg = s.resCfg := rfl
@[simp] theorem writeCg_dispOn (a : Nat) (v : BitVec 5) : (writeCg a v s).dispOn = s.dispOn := rfl
@[simp] theorem writeCg_curVis (a : Nat) (v : BitVec 5) : (writeCg a v s).curVis = s.curVis := rfl
@[simp] theorem writeCg_curCol (a : Nat) (v : BitVec 5) : (writeCg a v s).curCol = s.curCol := rfl
@[simp] theorem writeCg_curRow (a : Nat) (v : BitVec 5) : (writeCg a v s).curRow = s.curRow := rfl
@[simp] theorem writeCg_curValid (a : Nat) (v : BitVec 5) :
    (writeCg a v s).curValid = s.curValid := rfl
@[simp] theorem writeCg_ld (a : Nat) (v : BitVec 5) : (writeCg a v s).ld = s.ld := rfl
@[simp] theorem writeCg_done (a : Nat) (v : BitVec 5) : (writeCg a v s).done = s.done := rfl
@[simp] theorem writeCg_rom (a : Nat) (v : BitVec 5) : (writeCg a v s).rom = s.rom := rfl
@[simp] theorem writeCg_dd (a : Nat) (v : BitVec 5) : (writeCg a v s).dd = s.dd := rfl
@[simp] theorem writeCg_cg (a : Nat) (v : BitVec 5) : (writeCg a v s).cg = s.cg.write a v := rfl
@[simp] theorem writeCg_cp (a : Nat) (v : BitVec 5) : (writeCg a v s).cp = s.cp := rfl
@[simp] theorem writeCg_cmd (a : Nat) (v : BitVec 5) : (writeCg a v s).cmd = s.cmd := rfl
@[simp] theorem writeCg_rsp (a : Nat) (v : BitVec 5) : (writeCg a v s).rsp = s.rsp := rfl
@[simp] theorem writeCg_diag (a : Nat) (v : BitVec 5) : (writeCg a v s).diag = s.diag := rfl
@[simp] theorem writeCg_line (a : Nat) (v : BitVec 5) : (writeCg a v s).line = s.line := rfl
@[simp] theorem writeCg_undef (a : Nat) (v : BitVec 5) : (writeCg a v s).undef = s.undef := rfl
@[simp] theorem writeCg_epoch (a : Nat) (v : BitVec 5) : (writeCg a v s).epoch = s.epoch := rfl

/-! ## redraw -/

@[simp] theorem redraw_params : (redraw s).params = s.params := rfl
@[simp] theorem redraw_st : (redraw s).st = s.st := rfl
@[simp] theorem redraw_resCfg : (redraw s).resCfg = s.resCfg := rfl
@[simp] theorem redraw_dispOn : (redraw s).dispOn = s.dispOn := rfl
@[simp] theorem redraw_curVis : (redraw s).curVis = s.curVis := rfl
@[simp] theorem redraw_curCol : (redraw s).curCol = Config.drawnCurCol (s.epoch + 1) := rfl
@[simp] theorem redraw_curRow : (redraw s).curRow = Config.drawnCurRow (s.epoch + 1) := rfl
@[simp] theorem redraw_curValid : (redraw s).curValid = Config.drawnCurValid (s.epoch + 1) := rfl
@[simp] theorem redraw_ld : (redraw s).ld = s.ld := rfl
@[simp] theorem redraw_done : (redraw s).done = s.done := rfl
@[simp] theorem redraw_rom : (redraw s).rom = s.rom := rfl
@[simp] theorem redraw_dd : (redraw s).dd = [] := rfl
@[simp] theorem redraw_cg : (redraw s).cg = [] := rfl
@[simp] theorem redraw_cp : (redraw s).cp = s.cp := rfl
@[simp] theorem redraw_cmd : (redraw s).cmd = s.cmd := rfl
@[simp] theorem redraw_rsp : (redraw s).rsp = s.rsp := rfl
@[simp] theorem redraw_diag : (redraw s).diag = s.diag := rfl
@[simp] theorem redraw_line : (redraw s).line = s.line := rfl
@[simp] theorem redraw_undef : (redraw s).undef = s.undef := rfl
@[simp] theorem redraw_epoch : (redraw s).epoch = s.epoch + 1 := rfl

end Sys2Proof.Machine
end

