-- ==== Sys2Proof/Laws/Memory.lean ====
section
/-! SUPPORT. The display memories: read after write, and that every memory operation keeps the
canonical form. -/

namespace Sys2Proof.Machine

variable {w : Nat}

@[simp] theorem Memory.read?_nil (a : Nat) : Memory.read? ([] : Memory w) a = none := rfl

/-- A read after a write: the written cell holds the value, every other cell what it held. -/
theorem Memory.read?_write (m : Memory w) (a : Nat) (v : BitVec w) (b : Nat) :
    (Memory.write a v m).read? b = if b = a then some v else m.read? b := by
  induction m with
  | nil => simp [Memory.write, Memory.read?]
  | cons c m ih =>
    obtain ⟨c, u⟩ := c
    simp only [Memory.write]
    split
    · simp [Memory.read?]
    · split
      · rename_i h1 h2
        subst h2
        simp only [Memory.read?]
        by_cases hb : b = a <;> simp [hb]
      · rename_i h1 h2
        simp only [Memory.read?, ih]
        by_cases hb : b = c
        · subst hb
          simp [Ne.symm h2]
        · simp [hb]

@[simp] theorem Memory.read?_write_same (m : Memory w) (a : Nat) (v : BitVec w) :
    (Memory.write a v m).read? a = some v := by simp [Memory.read?_write]

theorem Memory.read?_write_other (m : Memory w) (a b : Nat) (v : BitVec w) (h : b ≠ a) :
    (Memory.write a v m).read? b = m.read? b := by simp [Memory.read?_write, h]

/-- Writing keeps the addresses strictly rising above any bound below the written address. -/
theorem Memory.risesFrom_write (m : Memory w) (a : Nat) (v : BitVec w) (lo : Option Nat)
    (hlo : ∀ l, lo = some l → l < a) (h : Memory.risesFrom lo m = true) :
    Memory.risesFrom lo (Memory.write a v m) = true := by
  induction m generalizing lo with
  | nil => cases lo <;> simp_all [Memory.write, Memory.risesFrom]
  | cons c m ih =>
    obtain ⟨c, u⟩ := c
    have htail : Memory.risesFrom (some c) m = true := by
      cases lo <;> simp_all [Memory.risesFrom]
    have hhead : ∀ l, lo = some l → l < c := by
      intro l hl; subst hl; simp [Memory.risesFrom] at h; exact h.1
    simp only [Memory.write]
    split
    · rename_i hac
      cases lo with
      | none => simp [Memory.risesFrom, hac, htail]
      | some l => simp [Memory.risesFrom, hac, htail, hlo l rfl]
    · split
      · rename_i _ hac
        subst hac
        cases lo with
        | none => simpa [Memory.risesFrom] using htail
        | some l => simp [Memory.risesFrom, htail, hlo l rfl]
      · rename_i h1 h2
        have hca : c < a := by omega
        have := ih (some c) (by intro l hl; cases hl; exact hca) htail
        cases lo with
        | none => simpa [Memory.risesFrom] using this
        | some l => simp [Memory.risesFrom, this, hhead l rfl]

theorem Memory.all_write (m : Memory w) (a : Nat) (v : BitVec w) (p : Nat × BitVec w → Bool)
    (hp : p (a, v) = true) (h : m.all p = true) : (Memory.write a v m).all p = true := by
  induction m with
  | nil => simpa [Memory.write] using hp
  | cons c m ih =>
    obtain ⟨c, u⟩ := c
    simp only [List.all_cons, Bool.and_eq_true] at h
    simp only [Memory.write]
    split
    · simp [hp, h.1, h.2]
    · split
      · simp [hp, h.2]
      · simp [h.1, ih h.2]

@[simp] theorem Memory.wf_nil (size : Nat) : Memory.wf size ([] : Memory w) = true := rfl

/-- A write to a cell of the space keeps the canonical form. -/
theorem Memory.wf_write (size : Nat) (m : Memory w) (a : Nat) (v : BitVec w) (ha : a < size)
    (h : m.wf size = true) : (Memory.write a v m).wf size = true := by
  simp only [Memory.wf, Bool.and_eq_true] at h ⊢
  exact ⟨Memory.risesFrom_write m a v none (by simp) h.1,
    Memory.all_write m a v _ (by simpa using ha) h.2⟩

theorem ddAddr_lt (p : Params) (row col : Nat) (hr : row < p.rows) (hc : col < p.cols) :
    ddAddr p row col < ddSize p :=
  calc row * p.cols + col < (row + 1) * p.cols := by rw [Nat.succ_mul]; omega
    _ ≤ p.rows * p.cols := Nat.mul_le_mul_right _ hr

theorem ddAddr_succ (p : Params) (row col : Nat) : ddAddr p row (col + 1) = ddAddr p row col + 1 := by
  simp only [ddAddr]; omega

theorem cgAddr_succ (slot y : Nat) : cgAddr slot (y + 1) = cgAddr slot y + 1 := by
  simp only [cgAddr]; omega

theorem ddAddr_inj (p : Params) (r c r' c' : Nat) (hc : c < p.cols) (hc' : c' < p.cols)
    (h : ddAddr p r c = ddAddr p r' c') : r = r' ∧ c = c' := by
  have hr : (r * p.cols + c) / p.cols = (r' * p.cols + c') / p.cols := congrArg (· / p.cols) h
  have hm : (r * p.cols + c) % p.cols = (r' * p.cols + c') % p.cols := congrArg (· % p.cols) h
  have hp : 0 < p.cols := by omega
  rw [Nat.mul_comm r, Nat.mul_comm r', Nat.mul_add_div hp, Nat.mul_add_div hp,
    Nat.div_eq_of_lt hc, Nat.div_eq_of_lt hc'] at hr
  rw [Nat.mul_comm r, Nat.mul_comm r', Nat.mul_add_mod, Nat.mul_add_mod, Nat.mod_eq_of_lt hc,
    Nat.mod_eq_of_lt hc'] at hm
  exact ⟨hr, hm⟩

theorem cgAddr_lt (slot y : Nat) (hs : slot < Config.nslots) (hy : y < 8) :
    cgAddr slot y < cgSize := by
  simp only [cgAddr, cgSize, Config.nslots] at *
  omega

@[simp] theorem ddCell_writeDd (s : State) (a : Nat) (v : Byte) (b : Nat) :
    ddCell (writeDd a v s) b = if b = a then v else ddCell s b := by
  simp only [ddCell, writeDd_dd, writeDd_epoch, Memory.read?_write]
  split <;> rfl

@[simp] theorem cgRow_writeDd (s : State) (a : Nat) (v : Byte) (b : Nat) :
    cgRow (writeDd a v s) b = cgRow s b := rfl

@[simp] theorem cgRow_writeCg (s : State) (a : Nat) (v : BitVec 5) (b : Nat) :
    cgRow (writeCg a v s) b = if b = a then v else cgRow s b := by
  simp only [cgRow, writeCg_cg, writeCg_epoch, Memory.read?_write]
  split <;> rfl

@[simp] theorem ddCell_writeCg (s : State) (a : Nat) (v : BitVec 5) (b : Nat) :
    ddCell (writeCg a v s) b = ddCell s b := rfl

end Sys2Proof.Machine
end

