-- ==== Sys2Proof/Laws/Ops.lean ====
section
/-! SUPPORT. What each shared operation does, said once: the response, the character write, the cell
loops. Proofs cite these and do not unfold the operations. -/

namespace Sys2Proof.Machine

/-! ## The response (R97) -/

/-- While the display is defined a response changes nothing but the streams and `CP`. -/
theorem settle_of_defined (s : State) (h : s.undef = false) : settle s = s := by simp [settle, h]

/-- After an UNDEFINED write every response draws the display anew. -/
theorem settle_of_undef (s : State) (h : s.undef = true) : settle s = redraw s := by
  simp [settle, h]

@[simp] theorem settle_st (s : State) : (settle s).st = s.st := by
  unfold settle; split <;> rfl
@[simp] theorem settle_params (s : State) : (settle s).params = s.params := by
  unfold settle; split <;> rfl
@[simp] theorem settle_resCfg (s : State) : (settle s).resCfg = s.resCfg := by
  unfold settle; split <;> rfl
@[simp] theorem settle_dispOn (s : State) : (settle s).dispOn = s.dispOn := by
  unfold settle; split <;> rfl
@[simp] theorem settle_curVis (s : State) : (settle s).curVis = s.curVis := by
  unfold settle; split <;> rfl
@[simp] theorem settle_ld (s : State) : (settle s).ld = s.ld := by
  unfold settle; split <;> rfl
@[simp] theorem settle_done (s : State) : (settle s).done = s.done := by
  unfold settle; split <;> rfl
@[simp] theorem settle_rom (s : State) : (settle s).rom = s.rom := by
  unfold settle; split <;> rfl
@[simp] theorem settle_cp (s : State) : (settle s).cp = s.cp := by
  unfold settle; split <;> rfl
@[simp] theorem settle_cmd (s : State) : (settle s).cmd = s.cmd := by
  unfold settle; split <;> rfl
@[simp] theorem settle_rsp (s : State) : (settle s).rsp = s.rsp := by
  unfold settle; split <;> rfl
@[simp] theorem settle_diag (s : State) : (settle s).diag = s.diag := by
  unfold settle; split <;> rfl
@[simp] theorem settle_line (s : State) : (settle s).line = s.line := by
  unfold settle; split <;> rfl
@[simp] theorem settle_undef (s : State) : (settle s).undef = s.undef := by
  unfold settle; split <;> rfl

variable (len : Nat) (status : Status) (payload : List Byte) (s : State)

@[simp] theorem emit_st : (emit len status payload s).st = s.st :=
  settle_st _
@[simp] theorem emit_params : (emit len status payload s).params = s.params :=
  settle_params _
@[simp] theorem emit_resCfg : (emit len status payload s).resCfg = s.resCfg :=
  settle_resCfg _
@[simp] theorem emit_dispOn : (emit len status payload s).dispOn = s.dispOn :=
  settle_dispOn _
@[simp] theorem emit_curVis : (emit len status payload s).curVis = s.curVis :=
  settle_curVis _
@[simp] theorem emit_ld : (emit len status payload s).ld = s.ld :=
  settle_ld _
@[simp] theorem emit_done : (emit len status payload s).done = s.done :=
  settle_done _
@[simp] theorem emit_rom : (emit len status payload s).rom = s.rom :=
  settle_rom _
@[simp] theorem emit_cp : (emit len status payload s).cp = s.cp + len :=
  settle_cp _
@[simp] theorem emit_cmd : (emit len status payload s).cmd = s.cmd :=
  settle_cmd _
@[simp] theorem emit_rsp : (emit len status payload s).rsp = s.rsp ++ status.code :: payload :=
  settle_rsp _
@[simp] theorem emit_diag : (emit len status payload s).diag = s.diag :=
  settle_diag _
@[simp] theorem emit_line : (emit len status payload s).line = s.line :=
  settle_line _
@[simp] theorem emit_undef : (emit len status payload s).undef = s.undef :=
  settle_undef _

@[simp] theorem respond_st : (respond len status payload s).st = status.code.extractLsb' 0 3 :=
  settle_st _
@[simp] theorem respond_params : (respond len status payload s).params = s.params :=
  settle_params _
@[simp] theorem respond_resCfg : (respond len status payload s).resCfg = s.resCfg :=
  settle_resCfg _
@[simp] theorem respond_dispOn : (respond len status payload s).dispOn = s.dispOn :=
  settle_dispOn _
@[simp] theorem respond_curVis : (respond len status payload s).curVis = s.curVis :=
  settle_curVis _
@[simp] theorem respond_ld : (respond len status payload s).ld = s.ld :=
  settle_ld _
@[simp] theorem respond_done : (respond len status payload s).done = s.done :=
  settle_done _
@[simp] theorem respond_rom : (respond len status payload s).rom = s.rom :=
  settle_rom _
@[simp] theorem respond_cp : (respond len status payload s).cp = s.cp + len :=
  settle_cp _
@[simp] theorem respond_cmd : (respond len status payload s).cmd = s.cmd :=
  settle_cmd _
@[simp] theorem respond_rsp : (respond len status payload s).rsp = s.rsp ++ status.code :: payload :=
  settle_rsp _
@[simp] theorem respond_diag : (respond len status payload s).diag = s.diag :=
  settle_diag _
@[simp] theorem respond_line : (respond len status payload s).line = s.line :=
  settle_line _
@[simp] theorem respond_undef : (respond len status payload s).undef = s.undef :=
  settle_undef _

theorem emit_curCol (h : s.undef = false) : (emit len status payload s).curCol = s.curCol := by
  simp [emit, settle, h]
theorem emit_curRow (h : s.undef = false) : (emit len status payload s).curRow = s.curRow := by
  simp [emit, settle, h]
theorem emit_curValid (h : s.undef = false) : (emit len status payload s).curValid = s.curValid := by
  simp [emit, settle, h]
theorem emit_dd (h : s.undef = false) : (emit len status payload s).dd = s.dd := by
  simp [emit, settle, h]
theorem emit_cg (h : s.undef = false) : (emit len status payload s).cg = s.cg := by
  simp [emit, settle, h]
theorem emit_epoch (h : s.undef = false) : (emit len status payload s).epoch = s.epoch := by
  simp [emit, settle, h]

theorem respond_curCol (h : s.undef = false) : (respond len status payload s).curCol = s.curCol := by
  simp [respond, emit, settle, h]
theorem respond_curRow (h : s.undef = false) : (respond len status payload s).curRow = s.curRow := by
  simp [respond, emit, settle, h]
theorem respond_curValid (h : s.undef = false) : (respond len status payload s).curValid = s.curValid := by
  simp [respond, emit, settle, h]
theorem respond_dd (h : s.undef = false) : (respond len status payload s).dd = s.dd := by
  simp [respond, emit, settle, h]
theorem respond_cg (h : s.undef = false) : (respond len status payload s).cg = s.cg := by
  simp [respond, emit, settle, h]
theorem respond_epoch (h : s.undef = false) : (respond len status payload s).epoch = s.epoch := by
  simp [respond, emit, settle, h]

/-- A response on a defined display, as one record. -/
theorem respond_of_defined (h : s.undef = false) :
    respond len status payload s =
      { s with
        st := status.code.extractLsb' 0 3
        rsp := s.rsp ++ status.code :: payload
        cp := s.cp + len } := by
  simp [respond, emit, settle, h]

/-- The response of a SYS operation on a defined display, as one record. -/
theorem emit_of_defined (h : s.undef = false) :
    emit len status payload s =
      { s with rsp := s.rsp ++ status.code :: payload, cp := s.cp + len } := by
  simp [emit, settle, h]

theorem ddCell_respond (h : s.undef = false) (a : Nat) :
    ddCell (respond len status payload s) a = ddCell s a := by
  simp only [ddCell, respond_dd _ _ _ _ h, respond_epoch _ _ _ _ h]

theorem cgRow_respond (h : s.undef = false) (a : Nat) :
    cgRow (respond len status payload s) a = cgRow s a := by
  simp only [cgRow, respond_cg _ _ _ _ h, respond_epoch _ _ _ _ h]

/-- The status byte is 0 to 3 and `ST` shows it (R24, R98). -/
theorem Status.code_le (status : Status) : status.code.toNat ≤ 3 := by cases status <;> decide

@[simp] theorem Status.code_st (status : Status) :
    (status.code.extractLsb' 0 3).zeroExtend 8 = status.code := by cases status <;> rfl

theorem Status.st_le (status : Status) : (status.code.extractLsb' 0 3).toNat ≤ 3 := by
  cases status <;> decide

/-! ## Character writes (R203) -/

/-- Everything a character write can do (R203, R212). -/
theorem putChar_cases (c : Byte) (s : State) :
    (cursorDefined s = true ∧ s.curCol.toNat = s.params.cols - 1 ∧
      putChar c s = invalidateCursor (writeDd (ddAddr s.params s.curRow.toNat s.curCol.toNat) c s)) ∨
    (cursorDefined s = true ∧ s.curCol.toNat ≠ s.params.cols - 1 ∧
      putChar c s =
        { writeDd (ddAddr s.params s.curRow.toNat s.curCol.toNat) c s with curCol := s.curCol + 1 }) ∨
    (cursorDefined s = false ∧ putChar c s = { s with undef := true }) := by
  by_cases h : cursorDefined s = true
  · by_cases hc : s.curCol.toNat = s.params.cols - 1 <;> simp [putChar, h, hc]
  · simp only [Bool.not_eq_true] at h
    simp [putChar, h]

/-- The three facts a defined cursor gives. -/
theorem cursorDefined_iff (s : State) :
    cursorDefined s = true ↔ s.undef = false ∧ s.curValid = true ∧
      s.curCol.toNat < s.params.cols ∧ s.curRow.toNat < s.params.rows := by
  simp [cursorDefined, and_assoc]

@[simp] theorem putChar_st (c : Byte) (s : State) : (putChar c s).st = s.st := by
  rcases putChar_cases c s with ⟨-, -, h⟩ | ⟨-, -, h⟩ | ⟨-, h⟩ <;> rw [h] <;> rfl
@[simp] theorem putChar_params (c : Byte) (s : State) : (putChar c s).params = s.params := by
  rcases putChar_cases c s with ⟨-, -, h⟩ | ⟨-, -, h⟩ | ⟨-, h⟩ <;> rw [h] <;> rfl
@[simp] theorem putChar_resCfg (c : Byte) (s : State) : (putChar c s).resCfg = s.resCfg := by
  rcases putChar_cases c s with ⟨-, -, h⟩ | ⟨-, -, h⟩ | ⟨-, h⟩ <;> rw [h] <;> rfl
@[simp] theorem putChar_dispOn (c : Byte) (s : State) : (putChar c s).dispOn = s.dispOn := by
  rcases putChar_cases c s with ⟨-, -, h⟩ | ⟨-, -, h⟩ | ⟨-, h⟩ <;> rw [h] <;> rfl
@[simp] theorem putChar_curVis (c : Byte) (s : State) : (putChar c s).curVis = s.curVis := by
  rcases putChar_cases c s with ⟨-, -, h⟩ | ⟨-, -, h⟩ | ⟨-, h⟩ <;> rw [h] <;> rfl
@[simp] theorem putChar_ld (c : Byte) (s : State) : (putChar c s).ld = s.ld := by
  rcases putChar_cases c s with ⟨-, -, h⟩ | ⟨-, -, h⟩ | ⟨-, h⟩ <;> rw [h] <;> rfl
@[simp] theorem putChar_done (c : Byte) (s : State) : (putChar c s).done = s.done := by
  rcases putChar_cases c s with ⟨-, -, h⟩ | ⟨-, -, h⟩ | ⟨-, h⟩ <;> rw [h] <;> rfl
@[simp] theorem putChar_rom (c : Byte) (s : State) : (putChar c s).rom = s.rom := by
  rcases putChar_cases c s with ⟨-, -, h⟩ | ⟨-, -, h⟩ | ⟨-, h⟩ <;> rw [h] <;> rfl
@[simp] theorem putChar_cg (c : Byte) (s : State) : (putChar c s).cg = s.cg := by
  rcases putChar_cases c s with ⟨-, -, h⟩ | ⟨-, -, h⟩ | ⟨-, h⟩ <;> rw [h] <;> rfl
@[simp] theorem putChar_cp (c : Byte) (s : State) : (putChar c s).cp = s.cp := by
  rcases putChar_cases c s with ⟨-, -, h⟩ | ⟨-, -, h⟩ | ⟨-, h⟩ <;> rw [h] <;> rfl
@[simp] theorem putChar_cmd (c : Byte) (s : State) : (putChar c s).cmd = s.cmd := by
  rcases putChar_cases c s with ⟨-, -, h⟩ | ⟨-, -, h⟩ | ⟨-, h⟩ <;> rw [h] <;> rfl
@[simp] theorem putChar_rsp (c : Byte) (s : State) : (putChar c s).rsp = s.rsp := by
  rcases putChar_cases c s with ⟨-, -, h⟩ | ⟨-, -, h⟩ | ⟨-, h⟩ <;> rw [h] <;> rfl
@[simp] theorem putChar_diag (c : Byte) (s : State) : (putChar c s).diag = s.diag := by
  rcases putChar_cases c s with ⟨-, -, h⟩ | ⟨-, -, h⟩ | ⟨-, h⟩ <;> rw [h] <;> rfl
@[simp] theorem putChar_line (c : Byte) (s : State) : (putChar c s).line = s.line := by
  rcases putChar_cases c s with ⟨-, -, h⟩ | ⟨-, -, h⟩ | ⟨-, h⟩ <;> rw [h] <;> rfl
@[simp] theorem putChar_epoch (c : Byte) (s : State) : (putChar c s).epoch = s.epoch := by
  rcases putChar_cases c s with ⟨-, -, h⟩ | ⟨-, -, h⟩ | ⟨-, h⟩ <;> rw [h] <;> rfl

@[simp] theorem putText_st (cs : List Byte) (s : State) : (putText cs s).st = s.st := by
  induction cs generalizing s with
  | nil => rfl
  | cons c cs ih => simp [putText, ih]
@[simp] theorem putText_params (cs : List Byte) (s : State) : (putText cs s).params = s.params := by
  induction cs generalizing s with
  | nil => rfl
  | cons c cs ih => simp [putText, ih]
@[simp] theorem putText_resCfg (cs : List Byte) (s : State) : (putText cs s).resCfg = s.resCfg := by
  induction cs generalizing s with
  | nil => rfl
  | cons c cs ih => simp [putText, ih]
@[simp] theorem putText_dispOn (cs : List Byte) (s : State) : (putText cs s).dispOn = s.dispOn := by
  induction cs generalizing s with
  | nil => rfl
  | cons c cs ih => simp [putText, ih]
@[simp] theorem putText_curVis (cs : List Byte) (s : State) : (putText cs s).curVis = s.curVis := by
  induction cs generalizing s with
  | nil => rfl
  | cons c cs ih => simp [putText, ih]
@[simp] theorem putText_ld (cs : List Byte) (s : State) : (putText cs s).ld = s.ld := by
  induction cs generalizing s with
  | nil => rfl
  | cons c cs ih => simp [putText, ih]
@[simp] theorem putText_done (cs : List Byte) (s : State) : (putText cs s).done = s.done := by
  induction cs generalizing s with
  | nil => rfl
  | cons c cs ih => simp [putText, ih]
@[simp] theorem putText_rom (cs : List Byte) (s : State) : (putText cs s).rom = s.rom := by
  induction cs generalizing s with
  | nil => rfl
  | cons c cs ih => simp [putText, ih]
@[simp] theorem putText_cg (cs : List Byte) (s : State) : (putText cs s).cg = s.cg := by
  induction cs generalizing s with
  | nil => rfl
  | cons c cs ih => simp [putText, ih]
@[simp] theorem putText_cp (cs : List Byte) (s : State) : (putText cs s).cp = s.cp := by
  induction cs generalizing s with
  | nil => rfl
  | cons c cs ih => simp [putText, ih]
@[simp] theorem putText_cmd (cs : List Byte) (s : State) : (putText cs s).cmd = s.cmd := by
  induction cs generalizing s with
  | nil => rfl
  | cons c cs ih => simp [putText, ih]
@[simp] theorem putText_rsp (cs : List Byte) (s : State) : (putText cs s).rsp = s.rsp := by
  induction cs generalizing s with
  | nil => rfl
  | cons c cs ih => simp [putText, ih]
@[simp] theorem putText_diag (cs : List Byte) (s : State) : (putText cs s).diag = s.diag := by
  induction cs generalizing s with
  | nil => rfl
  | cons c cs ih => simp [putText, ih]
@[simp] theorem putText_line (cs : List Byte) (s : State) : (putText cs s).line = s.line := by
  induction cs generalizing s with
  | nil => rfl
  | cons c cs ih => simp [putText, ih]
@[simp] theorem putText_epoch (cs : List Byte) (s : State) : (putText cs s).epoch = s.epoch := by
  induction cs generalizing s with
  | nil => rfl
  | cons c cs ih => simp [putText, ih]

/-! ## Cell loops (R204, R208) -/

@[simp] theorem blankCells_st (row len col : Nat) (s : State) : (blankCells row len col s).st = s.st := by
  induction len generalizing col s with
  | zero => rfl
  | succ n ih => simp [blankCells, ih]
@[simp] theorem blankCells_params (row len col : Nat) (s : State) : (blankCells row len col s).params = s.params := by
  induction len generalizing col s with
  | zero => rfl
  | succ n ih => simp [blankCells, ih]
@[simp] theorem blankCells_resCfg (row len col : Nat) (s : State) : (blankCells row len col s).resCfg = s.resCfg := by
  induction len generalizing col s with
  | zero => rfl
  | succ n ih => simp [blankCells, ih]
@[simp] theorem blankCells_dispOn (row len col : Nat) (s : State) : (blankCells row len col s).dispOn = s.dispOn := by
  induction len generalizing col s with
  | zero => rfl
  | succ n ih => simp [blankCells, ih]
@[simp] theorem blankCells_curVis (row len col : Nat) (s : State) : (blankCells row len col s).curVis = s.curVis := by
  induction len generalizing col s with
  | zero => rfl
  | succ n ih => simp [blankCells, ih]
@[simp] theorem blankCells_curCol (row len col : Nat) (s : State) : (blankCells row len col s).curCol = s.curCol := by
  induction len generalizing col s with
  | zero => rfl
  | succ n ih => simp [blankCells, ih]
@[simp] theorem blankCells_curRow (row len col : Nat) (s : State) : (blankCells row len col s).curRow = s.curRow := by
  induction len generalizing col s with
  | zero => rfl
  | succ n ih => simp [blankCells, ih]
@[simp] theorem blankCells_curValid (row len col : Nat) (s : State) : (blankCells row len col s).curValid = s.curValid := by
  induction len generalizing col s with
  | zero => rfl
  | succ n ih => simp [blankCells, ih]
@[simp] theorem blankCells_ld (row len col : Nat) (s : State) : (blankCells row len col s).ld = s.ld := by
  induction len generalizing col s with
  | zero => rfl
  | succ n ih => simp [blankCells, ih]
@[simp] theorem blankCells_done (row len col : Nat) (s : State) : (blankCells row len col s).done = s.done := by
  induction len generalizing col s with
  | zero => rfl
  | succ n ih => simp [blankCells, ih]
@[simp] theorem blankCells_rom (row len col : Nat) (s : State) : (blankCells row len col s).rom = s.rom := by
  induction len generalizing col s with
  | zero => rfl
  | succ n ih => simp [blankCells, ih]
@[simp] theorem blankCells_cg (row len col : Nat) (s : State) : (blankCells row len col s).cg = s.cg := by
  induction len generalizing col s with
  | zero => rfl
  | succ n ih => simp [blankCells, ih]
@[simp] theorem blankCells_cp (row len col : Nat) (s : State) : (blankCells row len col s).cp = s.cp := by
  induction len generalizing col s with
  | zero => rfl
  | succ n ih => simp [blankCells, ih]
@[simp] theorem blankCells_cmd (row len col : Nat) (s : State) : (blankCells row len col s).cmd = s.cmd := by
  induction len generalizing col s with
  | zero => rfl
  | succ n ih => simp [blankCells, ih]
@[simp] theorem blankCells_rsp (row len col : Nat) (s : State) : (blankCells row len col s).rsp = s.rsp := by
  induction len generalizing col s with
  | zero => rfl
  | succ n ih => simp [blankCells, ih]
@[simp] theorem blankCells_diag (row len col : Nat) (s : State) : (blankCells row len col s).diag = s.diag := by
  induction len generalizing col s with
  | zero => rfl
  | succ n ih => simp [blankCells, ih]
@[simp] theorem blankCells_line (row len col : Nat) (s : State) : (blankCells row len col s).line = s.line := by
  induction len generalizing col s with
  | zero => rfl
  | succ n ih => simp [blankCells, ih]
@[simp] theorem blankCells_undef (row len col : Nat) (s : State) : (blankCells row len col s).undef = s.undef := by
  induction len generalizing col s with
  | zero => rfl
  | succ n ih => simp [blankCells, ih]
@[simp] theorem blankCells_epoch (row len col : Nat) (s : State) : (blankCells row len col s).epoch = s.epoch := by
  induction len generalizing col s with
  | zero => rfl
  | succ n ih => simp [blankCells, ih]

@[simp] theorem loadRows_st (slot : Nat) (rs : List Byte) (y : Nat) (s : State) : (loadRows slot rs y s).st = s.st := by
  induction rs generalizing y s with
  | nil => rfl
  | cons r rs ih => simp [loadRows, ih]
@[simp] theorem loadRows_params (slot : Nat) (rs : List Byte) (y : Nat) (s : State) : (loadRows slot rs y s).params = s.params := by
  induction rs generalizing y s with
  | nil => rfl
  | cons r rs ih => simp [loadRows, ih]
@[simp] theorem loadRows_resCfg (slot : Nat) (rs : List Byte) (y : Nat) (s : State) : (loadRows slot rs y s).resCfg = s.resCfg := by
  induction rs generalizing y s with
  | nil => rfl
  | cons r rs ih => simp [loadRows, ih]
@[simp] theorem loadRows_dispOn (slot : Nat) (rs : List Byte) (y : Nat) (s : State) : (loadRows slot rs y s).dispOn = s.dispOn := by
  induction rs generalizing y s with
  | nil => rfl
  | cons r rs ih => simp [loadRows, ih]
@[simp] theorem loadRows_curVis (slot : Nat) (rs : List Byte) (y : Nat) (s : State) : (loadRows slot rs y s).curVis = s.curVis := by
  induction rs generalizing y s with
  | nil => rfl
  | cons r rs ih => simp [loadRows, ih]
@[simp] theorem loadRows_curCol (slot : Nat) (rs : List Byte) (y : Nat) (s : State) : (loadRows slot rs y s).curCol = s.curCol := by
  induction rs generalizing y s with
  | nil => rfl
  | cons r rs ih => simp [loadRows, ih]
@[simp] theorem loadRows_curRow (slot : Nat) (rs : List Byte) (y : Nat) (s : State) : (loadRows slot rs y s).curRow = s.curRow := by
  induction rs generalizing y s with
  | nil => rfl
  | cons r rs ih => simp [loadRows, ih]
@[simp] theorem loadRows_curValid (slot : Nat) (rs : List Byte) (y : Nat) (s : State) : (loadRows slot rs y s).curValid = s.curValid := by
  induction rs generalizing y s with
  | nil => rfl
  | cons r rs ih => simp [loadRows, ih]
@[simp] theorem loadRows_ld (slot : Nat) (rs : List Byte) (y : Nat) (s : State) : (loadRows slot rs y s).ld = s.ld := by
  induction rs generalizing y s with
  | nil => rfl
  | cons r rs ih => simp [loadRows, ih]
@[simp] theorem loadRows_done (slot : Nat) (rs : List Byte) (y : Nat) (s : State) : (loadRows slot rs y s).done = s.done := by
  induction rs generalizing y s with
  | nil => rfl
  | cons r rs ih => simp [loadRows, ih]
@[simp] theorem loadRows_rom (slot : Nat) (rs : List Byte) (y : Nat) (s : State) : (loadRows slot rs y s).rom = s.rom := by
  induction rs generalizing y s with
  | nil => rfl
  | cons r rs ih => simp [loadRows, ih]
@[simp] theorem loadRows_dd (slot : Nat) (rs : List Byte) (y : Nat) (s : State) : (loadRows slot rs y s).dd = s.dd := by
  induction rs generalizing y s with
  | nil => rfl
  | cons r rs ih => simp [loadRows, ih]
@[simp] theorem loadRows_cp (slot : Nat) (rs : List Byte) (y : Nat) (s : State) : (loadRows slot rs y s).cp = s.cp := by
  induction rs generalizing y s with
  | nil => rfl
  | cons r rs ih => simp [loadRows, ih]
@[simp] theorem loadRows_cmd (slot : Nat) (rs : List Byte) (y : Nat) (s : State) : (loadRows slot rs y s).cmd = s.cmd := by
  induction rs generalizing y s with
  | nil => rfl
  | cons r rs ih => simp [loadRows, ih]
@[simp] theorem loadRows_rsp (slot : Nat) (rs : List Byte) (y : Nat) (s : State) : (loadRows slot rs y s).rsp = s.rsp := by
  induction rs generalizing y s with
  | nil => rfl
  | cons r rs ih => simp [loadRows, ih]
@[simp] theorem loadRows_diag (slot : Nat) (rs : List Byte) (y : Nat) (s : State) : (loadRows slot rs y s).diag = s.diag := by
  induction rs generalizing y s with
  | nil => rfl
  | cons r rs ih => simp [loadRows, ih]
@[simp] theorem loadRows_line (slot : Nat) (rs : List Byte) (y : Nat) (s : State) : (loadRows slot rs y s).line = s.line := by
  induction rs generalizing y s with
  | nil => rfl
  | cons r rs ih => simp [loadRows, ih]
@[simp] theorem loadRows_undef (slot : Nat) (rs : List Byte) (y : Nat) (s : State) : (loadRows slot rs y s).undef = s.undef := by
  induction rs generalizing y s with
  | nil => rfl
  | cons r rs ih => simp [loadRows, ih]
@[simp] theorem loadRows_epoch (slot : Nat) (rs : List Byte) (y : Nat) (s : State) : (loadRows slot rs y s).epoch = s.epoch := by
  induction rs generalizing y s with
  | nil => rfl
  | cons r rs ih => simp [loadRows, ih]

/-- The cells `LCD.CLEAR_REGION` blanks, and no other (R208). -/
theorem ddCell_blankCells (row len col : Nat) (s : State) (a : Nat) :
    ddCell (blankCells row len col s) a =
      if ddAddr s.params row col ≤ a ∧ a < ddAddr s.params row col + len then Config.blank else ddCell s a := by
  induction len generalizing col s with
  | zero => rw [if_neg (by omega)]; rfl
  | succ n ih =>
    simp only [blankCells, ih, ddCell_writeDd, ddAddr_succ, writeDd_params]
    generalize ddAddr s.params row col = b
    split_ifs <;> first | rfl | (exfalso; omega)

/-- A window of cells filled from a list, one element at a time. -/
theorem window_cons {α β : Type} (f : α → β) (x z : α) (xs : List α) (b a : Nat) (e : β) :
    (if b + 1 ≤ a ∧ a < b + 1 + xs.length then f (xs.getD (a - (b + 1)) z)
      else if a = b then f x else e) =
    if b ≤ a ∧ a < b + (x :: xs).length then f ((x :: xs).getD (a - b) z) else e := by
  rw [List.length_cons]
  by_cases h0 : a = b
  · subst h0
    rw [if_neg (by omega), if_pos rfl, if_pos (by omega)]
    simp
  · by_cases h1 : b + 1 ≤ a ∧ a < b + 1 + xs.length
    · rw [if_pos h1, if_pos (by omega)]
      obtain ⟨k, hk⟩ : ∃ k, a - b = k + 1 := ⟨a - b - 1, by omega⟩
      rw [hk, show a - (b + 1) = k by omega, List.getD_cons_succ]
    · rw [if_neg h1, if_neg h0, if_neg (by omega)]

/-- The rows `LCD.LOAD_GLYPH` writes, and no other (R204). -/
theorem cgRow_loadRows (slot : Nat) (rs : List Byte) (y : Nat) (s : State) (a : Nat) :
    cgRow (loadRows slot rs y s) a =
      if cgAddr slot y ≤ a ∧ a < cgAddr slot y + rs.length then
        (rs.getD (a - cgAddr slot y) 0).extractLsb' 0 5
      else cgRow s a := by
  induction rs generalizing y s with
  | nil => rw [if_neg (by simp only [List.length_nil]; omega)]; rfl
  | cons r rs ih =>
    simp only [loadRows, ih, cgRow_writeCg, cgAddr_succ]
    exact window_cons (fun v : Byte => v.extractLsb' 0 5) r 0 rs _ a _

/-- `CG` rows of the frame buffer's writes: none. -/
@[simp] theorem cgRow_putText (cs : List Byte) (s : State) (a : Nat) :
    cgRow (putText cs s) a = cgRow s a := by simp [cgRow]

/-- A character write at a defined cursor writes that cell and no other (R203). -/
theorem ddCell_putChar (c : Byte) (s : State) (h : cursorDefined s = true) (a : Nat) :
    ddCell (putChar c s) a =
      if a = ddAddr s.params s.curRow.toNat s.curCol.toNat then c else ddCell s a := by
  rcases putChar_cases c s with ⟨-, -, e⟩ | ⟨-, -, e⟩ | ⟨h', -⟩
  · rw [e]
    exact ddCell_writeDd s _ c a
  · rw [e]
    exact ddCell_writeDd s _ c a
  · simp [h] at h'

/-- Inside a text that fits, the cursor stays defined and moves by one column. -/
theorem putChar_goesOn (c : Byte) (s : State) (hw : s.params.cols ≤ 255)
    (h : cursorDefined s = true) (hc : s.curCol.toNat + 1 < s.params.cols) :
    cursorDefined (putChar c s) = true ∧ (putChar c s).curRow = s.curRow ∧
      (putChar c s).curCol.toNat = s.curCol.toNat + 1 ∧
      (putChar c s).curValid = s.curValid ∧ (putChar c s).undef = s.undef := by
  have hn : (s.curCol + 1).toNat = s.curCol.toNat + 1 := by
    rw [BitVec.toNat_add, show (1 : Byte).toNat = 1 from rfl]; omega
  rcases putChar_cases c s with ⟨-, he, -⟩ | ⟨-, -, e⟩ | ⟨h', -⟩
  · omega
  · rw [e]
    rw [cursorDefined_iff] at h ⊢
    exact ⟨⟨h.1, h.2.1, hn ▸ hc, h.2.2.2⟩, rfl, hn, rfl, rfl⟩
  · simp [h] at h'

/-- A text that fits at a defined cursor fills the cells from the cursor on and no other (R207). -/
theorem ddCell_putText (cs : List Byte) (s : State) (hw : s.params.cols ≤ 255)
    (hd : cs ≠ [] → cursorDefined s = true) (hf : s.curCol.toNat + cs.length ≤ s.params.cols)
    (a : Nat) :
    ddCell (putText cs s) a =
      if ddAddr s.params s.curRow.toNat s.curCol.toNat ≤ a
          ∧ a < ddAddr s.params s.curRow.toNat s.curCol.toNat + cs.length then
        cs.getD (a - ddAddr s.params s.curRow.toNat s.curCol.toNat) 0
      else ddCell s a := by
  induction cs generalizing s with
  | nil => rw [if_neg (by simp only [List.length_nil]; omega)]; rfl
  | cons c cs ih =>
    have hcd := hd (by simp)
    rw [List.length_cons] at hf
    refine Eq.trans ?_ (window_cons id c 0 cs _ a (ddCell s a))
    rw [putText]
    by_cases hn : cs = []
    · subst hn
      rw [putText, ddCell_putChar c s hcd, if_neg (c := _ ∧ _) (by simp only [List.length_nil]; omega)]
      rfl
    · have hpos : 0 < cs.length := List.length_pos_iff.2 hn
      obtain ⟨k1, k2, k3, -, -⟩ := putChar_goesOn c s hw hcd (by omega)
      rw [ih (putChar c s) (by simpa using hw) (fun _ => k1) (by rw [putChar_params]; omega),
        putChar_params, k2, k3, ddCell_putChar c s hcd, ddAddr_succ]
      rfl

/-- Where a text that fits leaves the cursor (R203, R207). -/
theorem cursor_putText (cs : List Byte) (s : State) (hw : s.params.cols ≤ 255)
    (hd : cs ≠ [] → cursorDefined s = true) (hf : s.curCol.toNat + cs.length ≤ s.params.cols) :
    (putText cs s).undef = s.undef ∧
      (s.curCol.toNat + cs.length < s.params.cols →
        (putText cs s).curRow = s.curRow ∧
          (putText cs s).curCol.toNat = s.curCol.toNat + cs.length ∧
          (putText cs s).curValid = s.curValid) ∧
      (cs ≠ [] → s.curCol.toNat + cs.length = s.params.cols →
        (putText cs s).curValid = false) := by
  induction cs generalizing s with
  | nil => simp [putText]
  | cons c cs ih =>
    have hcd := hd (by simp)
    simp only [putText, List.length_cons] at hf ⊢
    by_cases hn : cs = []
    · subst hn
      simp only [putText, List.length_nil] at hf ⊢
      by_cases hl : s.curCol.toNat + 1 < s.params.cols
      · obtain ⟨-, k2, k3, k4, k5⟩ := putChar_goesOn c s hw hcd hl
        exact ⟨k5, fun _ => ⟨k2, by omega, k4⟩, fun _ h => absurd h (by omega)⟩
      · have he : s.curCol.toNat = s.params.cols - 1 := by omega
        have e : putChar c s =
            invalidateCursor (writeDd (ddAddr s.params s.curRow.toNat s.curCol.toNat) c s) := by
          simp [putChar, hcd, he]
        rw [e]
        exact ⟨rfl, fun h => absurd h (by omega), fun _ _ => rfl⟩
    · have hpos : 0 < cs.length := List.length_pos_iff.2 hn
      obtain ⟨k1, k2, k3, k4, k5⟩ := putChar_goesOn c s hw hcd (by omega)
      obtain ⟨i1, i2, i3⟩ := ih (putChar c s) (by simpa using hw) (fun _ => k1)
        (by rw [putChar_params]; omega)
      rw [putChar_params] at i2 i3
      refine ⟨i1.trans k5, fun h => ?_, fun _ h => i3 hn (by omega)⟩
      obtain ⟨j1, j2, j3⟩ := i2 (by omega)
      exact ⟨j1.trans k2, by omega, j3.trans k4⟩

end Sys2Proof.Machine
end

