-- ==== Sys2Proof/Laws/Kept.lean ====
section
/-! SUPPORT. How a response fits the terms the claims use: what it answers and what it leaves alone;
and the host's containment of errors. -/

namespace Sys2Proof.Machine

variable {s t : State} (len : Nat) (status : Status) (payload : List Byte)

/-- A response after updates that touch neither `CP` nor the response stream (R97). -/
theorem completed_respond (hcp : t.cp = s.cp) (hrsp : t.rsp = s.rsp) :
    Completed len status.code payload s (respond len status payload t) := by
  refine ⟨⟨?_, ?_⟩, ?_⟩
  · simp [hcp]
  · simp [hrsp]
  · simp

theorem responded_emit (hcp : t.cp = s.cp) (hrsp : t.rsp = s.rsp) :
    Responded len status.code payload s (emit len status payload t) := by
  constructor <;> simp [hcp, hrsp]

@[simp] theorem DisplayKept.refl (s : State) : DisplayKept s s :=
  ⟨⟨rfl, rfl⟩, rfl, fun _ => ⟨⟨rfl, rfl, rfl⟩, fun _ => rfl, fun _ => rfl⟩⟩

/-- A response leaves of the display what was left before it. -/
theorem DisplayKept.emit (h : DisplayKept s t) : DisplayKept s (emit len status payload t) := by
  obtain ⟨⟨h1, h2⟩, h3, h4⟩ := h
  refine ⟨⟨by simp [h1], by simp [h2]⟩, by simp [h3], fun hu => ?_⟩
  have htu : t.undef = false := h3.trans hu
  obtain ⟨⟨c1, c2, c3⟩, hd, hc⟩ := h4 hu
  rw [emit_of_defined len status payload t htu]
  exact ⟨⟨c1, c2, c3⟩, hd, hc⟩

theorem DisplayKept.respond (h : DisplayKept s t) :
    DisplayKept s (respond len status payload t) := by
  obtain ⟨⟨h1, h2⟩, h3, h4⟩ := h
  refine DisplayKept.emit len status payload (t := { t with st := _ }) ⟨⟨h1, h2⟩, h3, fun hu => ?_⟩
  obtain ⟨hc, hd, hg⟩ := h4 hu
  exact ⟨hc, hd, hg⟩

/-- What an operation leaves of the display depends on the display's own fields only. -/
theorem displayKept_of_fields (h1 : t.dispOn = s.dispOn) (h2 : t.curVis = s.curVis)
    (h3 : t.curCol = s.curCol) (h4 : t.curRow = s.curRow) (h5 : t.curValid = s.curValid)
    (h6 : t.dd = s.dd) (h7 : t.cg = s.cg) (h8 : t.undef = s.undef) (h9 : t.epoch = s.epoch) :
    DisplayKept s t :=
  ⟨⟨h1, h2⟩, h8, fun _ => ⟨⟨h3, h4, h5⟩, fun a => by simp [ddCell, h6, h9],
    fun a => by simp [cgRow, h7, h9]⟩⟩

theorem nonDisplayKept_respond (h : NonDisplayKept s t) :
    NonDisplayKept s (respond len status payload t) := by
  obtain ⟨h1, ⟨h2, h3, h4⟩, h5, h6, h7⟩ := h
  exact ⟨by simp [h1], ⟨by simp [h2], by simp [h3], by simp [h4]⟩, by simp [h5], by simp [h6],
    by simp [h7]⟩

theorem nonDisplayKept_emit (h : NonDisplayKept s t) :
    NonDisplayKept s (emit len status payload t) := by
  obtain ⟨h1, ⟨h2, h3, h4⟩, h5, h6, h7⟩ := h
  exact ⟨by simp [h1], ⟨by simp [h2], by simp [h3], by simp [h4]⟩, by simp [h5], by simp [h6],
    by simp [h7]⟩

@[simp] theorem NonDisplayKept.refl (s : State) : NonDisplayKept s s :=
  ⟨rfl, ⟨rfl, rfl, rfl⟩, rfl, rfl, rfl⟩

theorem nonDisplayKept_putText (cs : List Byte) (s : State) : NonDisplayKept s (putText cs s) :=
  ⟨by simp, ⟨by simp, by simp, by simp⟩, by simp, by simp, by simp⟩

/-- R289: on any non-zero status inside the handling of a device the host goes on with the pass. -/
theorem hostNext_returns_on_error (p : Params) (h : HostChoice) (a : Addr) (ti tf : Half)
    (r : List Byte) (hr : ¬respByte r 0 = 0#8) :
    ∀ phase ∈ [.converting a, .waiting a, .reading, .clearing ti tf, .printing, .suffixGlyph,
      .suffixUnit], hostNext p h phase r = (.searching, some .dsNext) := by
  simp [hostNext, hr]

end Sys2Proof.Machine
end

