-- ==== Sys2Proof/Laws/PerInstr.lean ====
section
/-! SUPPORT. Per-instruction family `Length`: the opcode map's length column (R94, R95) is the number
of bytes of the encoding, and no well-formed command is empty or longer than the longest one. -/

namespace Sys2Proof.Laws.Length

open Sys2Proof

def Statement (i : Instr) : Prop :=
  (encode i).length = i.length ∧
    (i.wellFormed = true → 1 ≤ i.length ∧ i.length ≤ longestCommand)

theorem sysNop : Statement .sysNop := ⟨rfl, fun _ => by simp [Instr.length, longestCommand]⟩
theorem sysRdreg (n : Byte) : Statement (.sysRdreg n) := ⟨rfl, fun _ => by simp [Instr.length, longestCommand]⟩
theorem btReset : Statement .btReset := ⟨rfl, fun _ => by simp [Instr.length, longestCommand]⟩
theorem btWriteBit (b : Bool) : Statement (.btWriteBit b) := ⟨rfl, fun _ => by simp [Instr.length, longestCommand]⟩
theorem btReadBit : Statement .btReadBit := ⟨rfl, fun _ => by simp [Instr.length, longestCommand]⟩
theorem btWriteByte (v : Byte) : Statement (.btWriteByte v) := ⟨rfl, fun _ => by simp [Instr.length, longestCommand]⟩
theorem btReadByte : Statement .btReadByte := ⟨rfl, fun _ => by simp [Instr.length, longestCommand]⟩
theorem dsInit : Statement .dsInit := ⟨rfl, fun _ => by simp [Instr.length, longestCommand]⟩
theorem dsNext : Statement .dsNext := ⟨rfl, fun _ => by simp [Instr.length, longestCommand]⟩
theorem dsVerify (a : Addr) : Statement (.dsVerify a) := ⟨rfl, fun _ => by simp [Instr.length, longestCommand]⟩
theorem sdStartConv (a : Addr) : Statement (.sdStartConv a) := ⟨rfl, fun _ => by simp [Instr.length, longestCommand]⟩
theorem sdReadTemp (a : Addr) : Statement (.sdReadTemp a) := ⟨rfl, fun _ => by simp [Instr.length, longestCommand]⟩
theorem sdDecode (reg : Half) : Statement (.sdDecode reg) := ⟨rfl, fun _ => by simp [Instr.length, longestCommand]⟩
theorem sdWait (res : BitVec 2) : Statement (.sdWait res) := ⟨rfl, fun _ => by simp [Instr.length, longestCommand]⟩
theorem sdSetRes (res : BitVec 2) : Statement (.sdSetRes res) := ⟨rfl, fun _ => by simp [Instr.length, longestCommand]⟩
theorem lcdLoadGlyph (slot : Byte) (glyph : Bytes8) : Statement (.lcdLoadGlyph slot glyph) := ⟨rfl, fun _ => by simp [Instr.length, longestCommand]⟩
theorem lcdSetCursor (col row : Byte) : Statement (.lcdSetCursor col row) := ⟨rfl, fun _ => by simp [Instr.length, longestCommand]⟩
theorem lcdWriteChar (c : Byte) : Statement (.lcdWriteChar c) := ⟨rfl, fun _ => by simp [Instr.length, longestCommand]⟩
theorem lcdPrint (text : List Byte) : Statement (.lcdPrint text) := by
  refine ⟨by simp only [encode, Instr.length, List.length_cons]; omega, fun h => ?_⟩
  simp only [Instr.wellFormed, decide_eq_true_eq] at h
  simp only [Instr.length, longestCommand]
  omega
theorem lcdClearRegion (col row len : Byte) : Statement (.lcdClearRegion col row len) := ⟨rfl, fun _ => by simp [Instr.length, longestCommand]⟩
theorem lcdPrintNum (v : Half) : Statement (.lcdPrintNum v) := ⟨rfl, fun _ => by simp [Instr.length, longestCommand]⟩
theorem lcdPrintTemp (ti tf : Half) : Statement (.lcdPrintTemp ti tf) := ⟨rfl, fun _ => by simp [Instr.length, longestCommand]⟩
theorem lcdCtrl (d c : Bool) : Statement (.lcdCtrl d c) := ⟨rfl, fun _ => by simp [Instr.length, longestCommand]⟩

end Sys2Proof.Laws.Length
end

