-- ==== Sys2Proof/Tests/Slice0.lean ====
section
/-! SUPPORT. Tests. Every expected value comes from the spec: the opcode map (R94), the worked vectors
of 95_test_vectors.md (section named at each group), or a rule's own example. The last part shows, for
every obligation with hypotheses, concrete states and operands that meet them. -/

namespace Sys2Proof.Tests

open Sys2Proof Sys2Proof.Machine

/-! ## Helpers: the devices of R76, a state with devices, one command from a state -/

def addrA : Addr := ⟨0x28, 0xFF, 0x4B, 0x1C, 0x00, 0x16, 0x03, 0x5F⟩
def addrB : Addr := ⟨0x28, 0x61, 0x64, 0x12, 0x3C, 0x7A, 0x9F, 0xBF⟩
def addrC : Addr := ⟨0x10, 0x5A, 0x11, 0x90, 0x01, 0x08, 0x00, 0x97⟩
def addrX : Addr := ⟨0x28, 0x01, 0x02, 0x03, 0x04, 0x05, 0x06, 0x00⟩

/-- Parameters that differ from every default: a grid of 3 by 20, other command bytes, times, a
scratchpad of 5 bytes. -/
def otherParams : Params :=
  { cols := 20
    rows := 3
    cmdSearch := 0xE1
    cmdMatch := 0x66
    cmdConvert := 0x45
    cmdReadSp := 0xBC
    spLen := 5
    familyCode := 0x10
    convTimes := ⟨1, 2, 3, 4⟩
    decodeMin := (0, 1) }

def dev (a : Addr) : Device :=
  { rom := a
    res := 3
    sp := [0x50, 0x05, 0x4B, 0x46, 0x7F, 0xFF, 0x0C, 0x10, 0x1C]
    nextTemp := 0x0191 }

/-- After reset, with some devices on the line. -/
def bus (devices : List Device) : State :=
  { State.reset with line := { env := .refEnv true devices } }

/-- After reset, with an environment that answers the listed bits. -/
def wire (answers : List Bool) : State :=
  { State.reset with line := { env := .oracle answers } }

/-- After reset and `LCD.SET_CURSOR`. -/
def at_ (col row : Byte) : State := setCursor col row State.reset

/-- The state after one step over some command bytes. -/
def after (s : State) (bytes : List Byte) : Option State :=
  match step (send bytes s) with
  | .next t => some t
  | .fault _ => none
  | .refused _ => none

/-- The response to one command. -/
def answer (s : State) (bytes : List Byte) : Option (List Byte) := (after s bytes).map (·.rsp)

/-- The line trace of one command, oldest first. -/
def trace (s : State) (bytes : List Byte) : Option (List LineEvent) :=
  (after s bytes).map (fun t => t.line.events.reverse)

/-- The cells of a row after one command. -/
def cells (s : State) (row n : Nat) (bytes : List Byte) : Option (List Byte) :=
  (after s bytes).map (fun t => (List.range n).map (fun c => ddCell t (ddAddr t.params row c)))

/-- The cursor after one command: column, row, valid. -/
def cursor (s : State) (bytes : List Byte) : Option (Byte × Byte × Bool) :=
  (after s bytes).map (fun t => (t.curCol, t.curRow, t.curValid))

/-! ## WellFormed -/

theorem test_wellFormed_refuses_long_text :
    (Instr.lcdPrint (List.replicate 256 0x41#8)).wellFormed = false := by decide +kernel

theorem test_wellFormed_accepts_longest_text :
    (Instr.lcdPrint (List.replicate 255 0x41#8)).wellFormed = true := by decide +kernel

/-! ## Decode: the words of R94 and section 2.1 -/

theorem test_decode_sysNop : decode [0x00#8] = .command .sysNop [] := by decide
theorem test_decode_sysRdreg : decode [0x01#8, 0x06#8] = .command (.sysRdreg 6) [] := by decide
theorem test_decode_btReset : decode [0x10#8] = .command .btReset [] := by decide
theorem test_decode_btWriteBit : decode [0x12#8] = .command (.btWriteBit false) [] ∧
    decode [0x13#8] = .command (.btWriteBit true) [] := by decide
theorem test_decode_btReadBit : decode [0x14#8] = .command .btReadBit [] := by decide
theorem test_decode_btWriteByte :
    decode [0x15#8, 0x33#8] = .command (.btWriteByte 0x33) [] := by decide
theorem test_decode_btReadByte : decode [0x16#8] = .command .btReadByte [] := by decide
theorem test_decode_dsInit : decode [0x20#8] = .command .dsInit [] := by decide
theorem test_decode_dsNext : decode [0x21#8] = .command .dsNext [] := by decide
theorem test_decode_dsVerify :
    decode [0x22#8, 0x28#8, 0xFF#8, 0x4B#8, 0x1C#8, 0x00#8, 0x16#8, 0x03#8, 0x5F#8] =
      .command (.dsVerify addrA) [] := by decide
theorem test_decode_sdStartConv :
    decode [0x30#8, 0x28#8, 0xFF#8, 0x4B#8, 0x1C#8, 0x00#8, 0x16#8, 0x03#8, 0x5F#8] =
      .command (.sdStartConv addrA) [] := by decide
theorem test_decode_sdReadTemp :
    decode [0x32#8, 0x28#8, 0xFF#8, 0x4B#8, 0x1C#8, 0x00#8, 0x16#8, 0x03#8, 0x5F#8] =
      .command (.sdReadTemp addrA) [] := by decide
theorem test_decode_sdDecode :
    decode [0x33#8, 0x91#8, 0x01#8] = .command (.sdDecode 0x0191) [] := by decide
theorem test_decode_sdWait : decode [0x34#8] = .command (.sdWait 0) [] ∧
    decode [0x37#8] = .command (.sdWait 3) [] := by decide
theorem test_decode_sdSetRes : decode [0x39#8] = .command (.sdSetRes 1) [] ∧
    decode [0x3A#8] = .command (.sdSetRes 2) [] := by decide
theorem test_decode_lcdLoadGlyph :
    decode [0x40#8, 0x00#8, 0x06#8, 0x09#8, 0x09#8, 0x06#8, 0x00#8, 0x00#8, 0x00#8, 0x00#8] =
      .command (.lcdLoadGlyph 0 ⟨6, 9, 9, 6, 0, 0, 0, 0⟩) [] := by decide
theorem test_decode_lcdSetCursor :
    decode [0x41#8, 0x06#8, 0x00#8] = .command (.lcdSetCursor 6 0) [] := by decide
theorem test_decode_lcdWriteChar :
    decode [0x42#8, 0x43#8] = .command (.lcdWriteChar 0x43) [] := by decide
theorem test_decode_lcdPrint : decode [0x43#8, 0x03#8, 0x35#8, 0x2E#8, 0x30#8, 0x10#8] =
      .command (.lcdPrint [0x35, 0x2E, 0x30]) [0x10#8] ∧
    decode [0x43#8, 0x00#8] = .command (.lcdPrint []) [] := by decide
theorem test_decode_lcdClearRegion :
    decode [0x44#8, 0x06#8, 0x00#8, 0x08#8] = .command (.lcdClearRegion 6 0 8) [] := by decide
theorem test_decode_lcdPrintNum :
    decode [0x45#8, 0xE7#8, 0xFF#8] = .command (.lcdPrintNum 0xFFE7) [] := by decide
theorem test_decode_lcdPrintTemp : decode [0x46#8, 0x19#8, 0x00#8, 0x71#8, 0x02#8] =
    .command (.lcdPrintTemp 0x0019 0x0271) [] := by decide
theorem test_decode_lcdCtrl : decode [0x49#8] = .command (.lcdCtrl false true) [] ∧
    decode [0x4A#8] = .command (.lcdCtrl true false) [] := by decide

theorem test_decode_illegal :
    ∀ op ∈ [0x02#8, 0x0F#8, 0x11#8, 0x17#8, 0x1F#8, 0x23#8, 0x2F#8, 0x31#8, 0x3C#8, 0x3F#8, 0x47#8,
      0x4C#8, 0x4F#8, 0x50#8, 0x80#8, 0xFF#8], decode [op, 0x10#8] = .illegalOpcode op := by decide

theorem test_decode_incomplete : decode [0x30#8, 0x28#8, 0xFF#8, 0x4B#8] = .incomplete ∧
    decode [] = .incomplete ∧ decode [0x43#8, 0x02#8, 0x41#8] = .incomplete := by decide

/-- A word of each row of the table, with operand bytes 0. -/
theorem test_table_words :
    [0x00, 0x01, 0x10, 0x14, 0x15, 0x16, 0x20, 0x21].map (decodeTableWord 8) =
      [some .sysNop, some (.sysRdreg 0), some .btReset, some .btReadBit, some (.btWriteByte 0),
        some .btReadByte, some .dsInit, some .dsNext] ∧
    [0x33, 0x41, 0x42, 0x43, 0x44, 0x45, 0x46].map (decodeTableWord 8) =
      [some (.sdDecode 0), some (.lcdSetCursor 0 0), some (.lcdWriteChar 0), some (.lcdPrint []),
        some (.lcdClearRegion 0 0 0), some (.lcdPrintNum 0), some (.lcdPrintTemp 0 0)] ∧
    [0x22, 0x30, 0x32, 0x40].map (decodeTableWord 8) =
      [some (.dsVerify zeroAddr), some (.sdStartConv zeroAddr), some (.sdReadTemp zeroAddr),
        some (.lcdLoadGlyph 0 zeroAddr)] ∧
    [0x13, 0x37, 0x3B, 0x4A].map (decodeTableWord 8) =
      [some (.btWriteBit true), some (.sdWait 3), some (.sdSetRes 3),
        some (.lcdCtrl true false)] := by decide

theorem test_table_word_runs :
    (∃ t, step (State.reset.withFetchWord 8 0x21) = .next t) ∧
    ∃ t, step (State.reset.withFetchWord 8 0x43) = .next t := ⟨⟨_, rfl⟩, ⟨_, rfl⟩⟩

/-! ## SYS (section 2.7) -/

theorem test_nop : answer (bus []) [0x00] = some [0x00] := by decide
theorem test_rdreg : answer (bus []) [0x01, 0x01] = some [0x00, 0x03] ∧
    answer (bus []) [0x01, 0x12] = some [0x00, 0x02] := by decide
theorem test_rdreg_absent : answer (bus []) [0x01, 0x13] = some [0x03, 0x00] ∧
    (after (bus []) [0x01, 0xFF]).map (·.st) = some 0 := by decide
theorem test_illegal_opcode : answer (bus []) [0x11, 0x10] = some [0x03] ∧
    (after (bus []) [0x11, 0x10]).map (fun t => (t.st, t.cp)) = some (3, 1) := by decide
theorem test_incomplete_waits : step (send [0x30, 0x28, 0xFF, 0x4B] (bus [])) =
    .fault .awaitingCommand := rfl

/-! ## BT (section 2.3) -/

theorem test_reset : answer (bus [dev addrA]) [0x10] = some [0x00] ∧
    answer (bus []) [0x10] = some [0x01] := by decide
theorem test_writeBit : trace (bus [dev addrA]) [0x13] = some [.write true] := by decide
theorem test_readBit : answer (bus []) [0x14] = some [0x00, 0x01] ∧
    answer (wire [false]) [0x14] = some [0x00, 0x00] := by decide
theorem test_writeByte : trace (bus [dev addrA]) [0x15, 0x33] =
    some ([true, true, false, false, true, true, false, false].map .write) := by decide
theorem test_readByte : answer (bus []) [0x16] = some [0x00, 0xFF] ∧
    answer (wire [true, false, false, false, false, false, true, false]) [0x16] =
      some [0x00, 0x41] := by decide

/-! ## DS (section 2.4, 2.2) -/

/-- The round after C was yielded: `LD` = 4, so it takes 1 at bit 4 and 0 at bit 10, and yields B. -/
theorem test_next_second_round :
    (after { bus [dev addrA, dev addrB, dev addrC] with rom := addrC, ld := 4 } [0x21]).map
      (fun t => (t.rsp, t.ld, t.done)) =
    some (0x00 :: 0x01 :: addrB.toList, 10, false) := by decide +kernel

/-- A and X: X is dropped inside the operation. -/
theorem test_next_drops :
    (after (bus [dev addrA, dev addrX]) [0x21]).map (fun t => (t.rsp, t.diag, t.ld, t.done)) =
    some (0x00 :: 0x01 :: addrA.toList, [addrX], 0, true) := by decide +kernel

theorem test_init :
    (after { bus [] with rom := addrC, ld := 4, done := true } [0x20]).map
      (fun t => (t.rsp, t.rom, t.ld, t.done)) = some ([0x00], zeroAddr, 0, false) := by decide

theorem test_verify : answer (bus []) (0x22 :: addrA.toList) = some [0x00] ∧
    answer (bus []) (0x22 :: addrX.toList) = some [0x02] := by decide +kernel

theorem test_crc8 : crc8 [] = 0x00 ∧ crc8 [0x01] = 0x5E ∧ crc8 [0x80] = 0x8C ∧ crc8 [0xFF] = 0x35 ∧
    crc8 (List.replicate 8 0xFF) = 0xC9 ∧
    crc8 [0x02, 0x1C, 0xB8, 0x01, 0x00, 0x00, 0x00] = 0xA2 := by decide +kernel

/-! ## SD (section 2.5) -/

theorem test_startConv : (after (bus [dev addrA]) (0x30 :: addrA.toList)).map
      (fun t => (t.rsp, t.line.events.length)) = some ([0x00, 0x03], 81) ∧
    answer (bus []) (0x30 :: addrA.toList) = some [0x01, 0x03] := by decide +kernel

theorem test_readTemp : answer (bus [{ dev addrA with
      sp := [0x91, 0x01, 0x4B, 0x46, 0x7F, 0xFF, 0x0C, 0x10, 0x70] }]) (0x32 :: addrA.toList) =
      some [0x00, 0x19, 0x00, 0x71, 0x02] := by decide +kernel
theorem test_readTemp_errors :
    answer (bus [dev addrA]) (0x32 :: addrB.toList) = some [0x02, 0x00, 0x00, 0x00, 0x00] ∧
    answer (bus []) (0x32 :: addrA.toList) = some [0x01, 0x00, 0x00, 0x00, 0x00] := by
  decide +kernel

theorem test_decodeTemp : [0x0000, 0x000F, 0x0191, 0x7FFF, 0x8000, 0x8001].map (decodeTemp {}) =
      [(0, 0), (0, 9375), (25, 625), (2047, 9375), (-2048, 0), (-2047, -9375)] ∧
    [0xFE6F, 0xFF5E, 0xFFF0, 0xFFF1, 0xFFF8, 0xFFFF].map (decodeTemp {}) =
      [(-25, -625), (-10, -1250), (-1, 0), (0, -9375), (0, -5000), (0, -625)] := by decide
theorem test_sdDecode : answer (bus []) [0x33, 0x6F, 0xFE] =
    some [0x00, 0xE7, 0xFF, 0x8F, 0xFD] := by decide

/-- A pending conversion ends in a wait that is long enough (R74), and the scratchpad checks. -/
theorem test_wait :
    (after (bus [{ dev addrA with pending := true }]) [0x37]).map (·.line.env) =
      some (.refEnv true [{ dev addrA with
        sp := [0x91, 0x01, 0x4B, 0x46, 0x7F, 0xFF, 0x0C, 0x10, 0x70] }]) ∧
    (after (bus [{ dev addrA with pending := true }]) [0x36]).map (·.line.env) =
      some (.refEnv true [{ dev addrA with pending := true }]) := by decide +kernel

theorem test_setRes : (after (bus []) [0x3A]).map (fun t => (t.rsp, t.resCfg)) =
    some ([0x00], 2) := by decide

/-! ## LCD (section 2.6) -/

theorem test_loadGlyph :
    (after State.reset [0x40, 1, 0xFF, 0xE1, 6, 9, 0, 0, 0, 0x10]).map (fun t =>
      ((List.range 8).map (fun y => cgRow t (cgAddr 1 y)), t.curValid)) =
      some ([0x1F, 0x01, 0x06, 0x09, 0, 0, 0, 0x10], false) := by decide
theorem test_loadGlyph_absent : answer (at_ 3 1) (0x40 :: 2 :: List.replicate 8 0) = some [0x03] ∧
    cursor (at_ 3 1) (0x40 :: 2 :: List.replicate 8 0) = some (3, 1, true) := by decide

theorem test_setCursor : cursor State.reset [0x41, 0x0F, 0x01] = some (15, 1, true) := by decide
theorem test_setCursor_outside : answer (at_ 3 1) [0x41, 0x10, 0x00] = some [0x03] ∧
    cursor (at_ 3 1) [0x41, 0x00, 0x02] = some (3, 1, true) := by decide

theorem test_writeChar : (after (at_ 14 1) [0x42, 0x41]).map (fun t =>
      (ddCell t 30, t.curCol, t.curValid)) = some (0x41, 15, true) ∧
    (after (at_ 15 1) [0x42, 0x42]).map (fun t => (ddCell t 31, t.curValid, t.undef)) =
      some (0x42, false, false) := by decide
theorem test_writeChar_undefined :
    (after State.reset [0x42, 0x43]).map (fun t => (t.rsp, t.undef)) =
      some ([0x00], true) := by decide

theorem test_print : cells (at_ 0 0) 0 5 [0x43, 0x05, 0x54, 0x65, 0x6D, 0x70, 0x3A] =
      some [0x54, 0x65, 0x6D, 0x70, 0x3A] ∧
    cursor (at_ 0 0) [0x43, 0x05, 0x54, 0x65, 0x6D, 0x70, 0x3A] = some (5, 0, true) := by decide
theorem test_print_fits : (after (at_ 13 0) [0x43, 0x03, 0x41, 0x42, 0x43]).map (fun t =>
      (ddCell t 15, t.curValid, t.undef)) = some (0x43, false, false) ∧
    (after (at_ 13 0) [0x43, 0x04, 0x41, 0x42, 0x43, 0x44]).map (fun t => (t.rsp, t.undef)) =
      some ([0x00], true) := by decide

theorem test_clearRegion : cells State.reset 0 16 [0x44, 0x00, 0x00, 0x10] =
      some (List.replicate 16 0x20) ∧
    cursor (at_ 3 1) [0x44, 0x0A, 0x00, 0x06] = some (10, 0, true) := by decide
theorem test_clearRegion_outside : answer (at_ 3 1) [0x44, 0x0A, 0x00, 0x07] = some [0x03] ∧
    answer (at_ 3 1) [0x44, 0x10, 0x00, 0x00] = some [0x03] ∧
    answer (at_ 3 1) [0x44, 0x0F, 0x00, 0x00] = some [0x00] := by decide

theorem test_printNum : cells (at_ 0 1) 1 3 [0x45, 0xE7, 0xFF] = some [0x2D, 0x32, 0x35] ∧
    cursor (at_ 0 1) [0x45, 0xE7, 0xFF] = some (3, 1, true) := by decide
theorem test_printNum_texts : numText 0 = [0x30] ∧
    numText 1000 = [0x31, 0x30, 0x30, 0x30] ∧
    numText (-32768) = [0x2D, 0x33, 0x32, 0x37, 0x36, 0x38] := by decide

theorem test_printTemp : cells (at_ 0 1) 1 8 [0x46, 0xE7, 0xFF, 0x8F, 0xFD] =
      some [0x2D, 0x32, 0x35, 0x2E, 0x30, 0x36, 0x32, 0x35] ∧
    cells (at_ 0 1) 1 7 [0x46, 0x00, 0x00, 0x78, 0xEC] =
      some [0x2D, 0x30, 0x2E, 0x35, 0x30, 0x30, 0x30] := by decide
theorem test_printTemp_illegal : answer (at_ 0 1) [0x46, 0x01, 0x00, 0xFF, 0xFF] = some [0x03] ∧
    answer (at_ 0 1) [0x46, 0xFF, 0xFF, 0x01, 0x00] = some [0x03] ∧
    answer (at_ 0 1) [0x46, 0x00, 0x00, 0x10, 0x27] = some [0x03] ∧
    answer (at_ 0 1) [0x46, 0x00, 0x00, 0x0F, 0x27] = some [0x00] := by decide

theorem test_ctrl : (after State.reset [0x49]).map (fun t => (t.dispOn, t.curVis)) =
      some (false, true) ∧
    (after State.reset [0x4A]).map dctl = some 2 := by decide

/-- The glyph of section 2.6 in cell (0, 13): rows 0 and 1 of its picture. -/
theorem test_pixel :
    (after { writeDd 13 0x00 (at_ 0 0) with dispOn := true, curVis := false }
      [0x40, 0, 6, 9, 9, 6, 0, 0, 0, 0]).map (fun t =>
        ((List.range 5).map (pixel t 0 13 0), (List.range 5).map (pixel t 0 13 1))) =
      some ([false, false, true, true, false], [false, true, false, false, true]) := by decide

/-! ## Other parameters (R9), and the host's containment (R289) -/

theorem test_otherParams :
    (after { at_ 0 0 with params := otherParams } [0x41, 19, 2]).map (fun t =>
      (t.rsp, t.curCol, t.curRow)) = some ([0x00], 19, 2) ∧
    answer { bus [] with params := otherParams } [0x01, 0x10] = some [0x00, 20] ∧
    answer { bus [] with params := otherParams } [0x33, 0x00, 0x80] = some [0x00, 0, 0, 1, 0] ∧
    (trace { bus [dev addrA] with params := otherParams } (0x30 :: addrA.toList)).map (·.take 9) =
      some (.reset true :: (bitsOf 0x66).map .write) := by decide +kernel

/-- A failed clear of the region drops the device: no display write follows it. -/
theorem test_host_returns_on_a_failed_clear :
    (hostNext {} ⟨0, 0, 16, 0, []⟩ (.clearing 25 625) [0x03]).2 = some .dsNext ∧
    (hostNext {} ⟨0, 0, 16, 0, []⟩ (.clearing 25 625) [0x00]).2 = some (.lcdPrintTemp 25 625) := by
  decide

/-! ## Witnesses: every hypothesis of an obligation can be met -/

/-- A state that meets the invariant, with devices and a cursor. -/
def live : State := { setCursor 15 1 (bus [dev addrA, dev addrB]) with ld := 10, rom := addrB }

theorem live_inv : Inv live :=
  ⟨by decide, by decide, by decide, by decide, by decide, by decide, by decide, by decide,
    by decide +kernel⟩

theorem witness_ResetMeetsTheInvariant :
    Params.wf {} = true ∧ otherParams.wf = true ∧ live.params.wf = true ∧
    live.line.env.sane live.params = true := by decide +kernel

theorem witness_StepKeepsTheInvariant :
    Inv (send [0x42, 0x41] live) ∧ ∃ t, step (send [0x42, 0x41] live) = .next t :=
  ⟨⟨by decide, by decide, by decide, by decide, by decide, by decide, by decide, by decide,
    by decide +kernel⟩, ⟨_, rfl⟩⟩

theorem witness_NothingWritesTheParameters :
    (∃ t, exec (.lcdPrint [0x41]) live = .next t) ∧
    ∃ t, step (send [0x42, 0x41] live) = .next t := ⟨⟨_, rfl⟩, ⟨_, rfl⟩⟩

theorem witness_OnlySearchOperationsWriteTheSearchState :
    (Instr.btReset ≠ .dsInit ∧ Instr.btReset ≠ .dsNext ∧ ∃ t, exec .btReset live = .next t) ∧
    ∃ s t, exec .dsNext s = .next t ∧ s.done = true :=
  ⟨⟨by decide, by decide, ⟨_, rfl⟩⟩, ⟨{ live with done := true, ld := 0 }, _, rfl, rfl⟩⟩

theorem witness_DisplayAndLineAreIndependent :
    (isLcd (.sdWait 3) = false ∧ ∃ t, exec (.sdWait 3) live = .next t) ∧
    isLcd (.lcdPrint [0x41]) = true ∧ ∃ t, exec (.lcdPrint [0x41]) live = .next t :=
  ⟨⟨rfl, ⟨_, rfl⟩⟩, rfl, ⟨_, rfl⟩⟩

/-- An operation of SYS, one of the others, and a `DS.NEXT`, each with a next state. -/
theorem witness_StatusRegisterShowsTheLastStatus :
    (isSys (.sysRdreg 0) = true ∧ ∃ t, exec (.sysRdreg 0) live = .next t) ∧
    (isSys (.lcdSetCursor 16 0) = false ∧ ∃ t, exec (.lcdSetCursor 16 0) live = .next t) ∧
    isSys .dsNext = false ∧ ∃ t, exec .dsNext live = .next t :=
  ⟨⟨rfl, ⟨_, rfl⟩⟩, ⟨rfl, ⟨_, rfl⟩⟩, rfl, ⟨_, rfl⟩⟩

theorem witness_EveryCommandIsAnsweredOnce :
    (∃ t, exec .dsNext live = .next t) ∧ ∃ t, exec (.lcdPrint [0x41, 0x42]) live = .next t :=
  ⟨⟨_, rfl⟩, ⟨_, rfl⟩⟩

theorem witness_StreamsOnlyGoForward :
    (∃ t, step (send [0x21] live) = .next t) ∧ ∃ t, step (send [0xFF] live) = .next t :=
  ⟨⟨_, rfl⟩, ⟨_, rfl⟩⟩

theorem witness_DecodeOfEncodeIsTheCommand :
    (Instr.lcdPrint (List.replicate 255 0x41)).wellFormed = true ∧
    (Instr.lcdPrint []).wellFormed = true ∧ (Instr.sdDecode 0x8000).wellFormed = true := by
  decide +kernel

theorem witness_DecodedBytesAreTheEncoding :
    decode [0x43, 0x00, 0x10] = .command (.lcdPrint []) [0x10] ∧
    decode [0x43, 0x02, 0x41, 0x42] = .command (.lcdPrint [0x41, 0x42]) [] := by decide

theorem witness_DecoderFollowsTheOpcodeTable :
    decode [0x4B] = .command (.lcdCtrl true true) [] ∧ decode [0x4C] = .illegalOpcode 0x4C := by
  decide

theorem witness_StepRunsTheDecodedCommand :
    ((Instr.lcdWriteChar 0x41).wellFormed = true ∧
      (send [0x42, 0x41, 0x10] live).cmd.drop live.cp = encode (.lcdWriteChar 0x41) ++ [0x10]) ∧
    decode ((send [0x42, 0x41, 0x10] live).cmd.drop live.cp) =
      .command (.lcdWriteChar 0x41) [0x10] ∧
    decode ((send [0x47] live).cmd.drop live.cp) = .illegalOpcode 0x47 ∧
    decode ((send [0x42] live).cmd.drop live.cp) = .incomplete := by decide

theorem witness_IncompleteCommandHasNoStep :
    (Instr.lcdPrint [0x41, 0x42]).wellFormed = true ∧
    encode (.lcdPrint [0x41, 0x42]) = [0x43, 0x02, 0x41] ++ [0x42] ∧ ([0x42] : List Byte) ≠ [] ∧
    (send [0x43, 0x02, 0x41] live).cmd.drop live.cp = [0x43, 0x02, 0x41] ∧
    encode .btReset = [] ++ [0x10] ∧ live.cmd.drop live.cp = [] := by decide

theorem witness_IllegalOpcodeIsConsumedAlone :
    (∀ r ∈ opcodeRows, (0x4C : Byte) &&& r.1 ≠ r.2) ∧
    (∀ r ∈ opcodeRows, (0xFF : Byte) &&& r.1 ≠ r.2) ∧
    (send [0x4C, 0x10] live).cmd.drop live.cp = [0x4C, 0x10] :=
  ⟨by simp [opcodeRows], by simp [opcodeRows], by decide⟩

theorem witness_RdregRespondsWithTheRegister :
    (0x12 : Byte).toNat ≤ 18 ∧ (0x13 : Byte).toNat ≥ 19 ∧ live.curValid = true ∧
    live.params.wf = true ∧ otherParams.wf = true ∧
    (0x0F : Byte).toNat = 8 + 7 := by decide

theorem witness_BusResetReportsPresence :
    live.line.env = .refEnv true [dev addrA, dev addrB] := rfl

theorem witness_ReadBitIsOneReadSlot :
    live.line.env = .refEnv true [dev addrA, dev addrB] ∧
    ∀ d ∈ [dev addrA, dev addrB], d.mode = .idle := by decide

theorem witness_ReadByteIsEightReadSlots :
    (bus [dev addrC]).line.env = .refEnv true [dev addrC] ∧
    ∀ d ∈ [dev addrC], d.mode = .idle := by decide

theorem witness_NextAfterThePassIsIdle : ({ live with done := true } : State).done = true := rfl

theorem witness_NextWithoutPresenceEndsThePass :
    (bus []).done = false ∧ envPresence (bus []).line.env (bus []).line.events = false ∧
    envPresence (wire [false]).line.env (wire [false]).line.events = false := by decide

/-- No answer at bit 1 (section 2.4: the devices vanish after the presence pulse). -/
theorem witness_NextWithoutAnswerEndsThePass :
    (wire [true, true, true]).done = false ∧
    (round (wire [true, true, true]).params (wire [true, true, true]).rom (wire [true, true, true]).ld.toNat
      (wire [true, true, true]).line).1 = .noAnswer := by decide

/-- The last address of a pass (`LD` becomes 0) and one before it (`LD` becomes 10). -/
theorem witness_NextYieldsAValidAddress :
    ((bus [dev addrA]).done = false ∧ addrValid addrA = true ∧
      (round {} zeroAddr 0 (bus [dev addrA]).line).1 = .completed addrA 0) ∧
    addrValid addrB = true ∧
      (round {} zeroAddr 0 (bus [dev addrA, dev addrB]).line).1 = .completed addrB 10 := by
  decide +kernel

/-- A and X: X comes first and is dropped, then the same `DS.NEXT` responds. -/
theorem witness_DroppedAddressAdvancesTheSearch :
    (round {} zeroAddr 0 (bus [dev addrA, dev addrX]).line).1 = .completed addrX 10 ∧
    addrValid addrX = false ∧
    (match exec .dsNext (bus [dev addrA, dev addrX]) with
      | .next t => t.cp
      | _ => 0) ≠ (bus [dev addrA, dev addrX]).cp := by decide +kernel

/-- The three outcomes: an address, the end of the pass, and no device. -/
theorem witness_NextYieldsOrEndsThePass :
    [bus [dev addrA], { bus [] with done := true }, bus []].map (fun s =>
      match exec .dsNext s with
      | .next t => (t.cp, t.rsp.take 2)
      | _ => (0, [])) =
    [(1, [0x00, 0x01]), (1, [0x00, 0x00]), (1, [0x01, 0x00])] := by decide +kernel

/-- Round 3 of section 2.4: bit 4 follows the previous address and bit 10 is taken as 1. -/
theorem witness_RoundFollowsTheSearchRules :
    (round {} addrB 10 (bus [dev addrA, dev addrB, dev addrC]).line).1 = .completed addrA 0 ∧
    (round {} addrC 4 (bus [dev addrA, dev addrB, dev addrC]).line).1 = .completed addrB 10 := by
  decide +kernel

/-- No presence; no answer at bit 1; no answer at bit 64. -/
theorem witness_RoundCutShortCountsItsSlots :
    (round {} zeroAddr 0 (wire [false]).line).1 = .noPresence ∧
    (round {} zeroAddr 0 (wire [true, true, true]).line).1 = .noAnswer ∧
    (round {} zeroAddr 0 (wire (true :: List.replicate 126 false ++ [true, true])).line).1 =
      .noAnswer := by decide +kernel

theorem witness_RoundFindsADeviceOfTheLine : [dev addrX] ≠ [] := by decide

theorem witness_PassYieldsEveryDeviceOnce :
    [dev addrA, dev addrB, dev addrC] ≠ [] ∧
    (bus [dev addrA, dev addrB, dev addrC]).line.env =
      .refEnv true [dev addrA, dev addrB, dev addrC] ∧
    ([dev addrA, dev addrB, dev addrC].map Device.rom).Nodup ∧
    (∀ d ∈ [dev addrA, dev addrB, dev addrC], addrValid d.rom = true) ∧
    (bus [dev addrA, dev addrB, dev addrC]).rom = ⟨0, 0, 0, 0, 0, 0, 0, 0⟩ ∧
    (bus [dev addrA, dev addrB, dev addrC]).ld = 0 ∧
    (bus [dev addrA, dev addrB, dev addrC]).done = false := by decide +kernel

/-- Bit 1 (the family code's lowest) and bit 64 (the checksum's highest) of A flipped. -/
theorem witness_CrcDetectsEverySingleBitError :
    addrValid addrA = true ∧
    (addrBit { addrA with b0 := 0x29 } 1 = !addrBit addrA 1 ∧
      ∀ j ≤ 64, 1 ≤ j → j ≠ 1 → addrBit { addrA with b0 := 0x29 } j = addrBit addrA j) ∧
    addrBit { addrA with b7 := 0xDF } 64 = !addrBit addrA 64 ∧
      ∀ j ≤ 64, 1 ≤ j → j ≠ 64 → addrBit { addrA with b7 := 0xDF } j = addrBit addrA j := by
  decide +kernel

theorem witness_ReadTempReadsChecksAndDecodes :
    envPresence (bus []).line.env (bus []).line.events = false ∧
    envPresence (bus [dev addrA]).line.env (bus [dev addrA]).line.events = true ∧
    crc8 ((dev addrA).sp.take 8) = (dev addrA).sp.getD 8 0 ∧
    crc8 ((List.replicate 9 (0xFF : Byte)).take 8) ≠ (List.replicate 9 (0xFF : Byte)).getD 8 0 := by
  decide +kernel

theorem witness_DeadLinePassesTheChecksOfZeros :
    ((wire (true :: List.replicate 72 true ++ [])).params.spLen = 9 ∧
      (wire (true :: List.replicate 72 true ++ [])).line.env =
        .oracle (true :: List.replicate 72 true ++ [])) ∧
    (wire (true :: List.replicate (8 * 9) false ++ [true])).line.env =
      .oracle (true :: List.replicate (8 * (wire []).params.spLen) false ++ [true]) ∧
    (wire (true :: List.replicate 128 false ++ [true])).done = false ∧
    (wire (true :: List.replicate 128 false ++ [true])).ld = 0 ∧
    (wire (true :: List.replicate 128 false ++ [true])).line.env =
      .oracle (true :: List.replicate 128 false ++ [true]) :=
  ⟨⟨rfl, rfl⟩, rfl, rfl, rfl, rfl⟩

theorem witness_DecoderArithmeticLaws :
    (0x7FFF : Half) ≠ 0x8000 ∧ (0x7FFF : Half).toInt ≥ 0 ∧ (0x8001 : Half) ≠ 0x8000 ∧
    (0x8001 : Half).toInt < 0 ∧ (0 : Half) ≠ 0x8000 ∧ (0 : Half).toInt ≥ 0 ∧
    (-16 < (0xFFF1 : Half).toInt ∧ (0xFFF1 : Half).toInt < 0) ∧
    (-16 < (0xFFFF : Half).toInt ∧ (0xFFFF : Half).toInt < 0) ∧
    (({} : Params).decodeMin = (-2048, 0) ∧ (0x8000 : Half).toInt < 0) := by decide

/-- A register other than 0x8000, and parameters under which 0x8000 is covered as well. -/
theorem witness_DecodeRespondsWithBothParts :
    (0x8001 : Half) ≠ 0x8000 ∧ live.params.wf = true := by decide

theorem witness_DecodeIsAnInvolutionOnSign :
    (0 : Half) ≠ 0x8000 ∧ (0x7FFF : Half) ≠ 0x8000 ∧ (0x8001 : Half) ≠ 0x8000 := by decide

/-- The wait of exactly the device's conversion time, with a device on each side. -/
theorem witness_ReadingReturnsTheConvertedTemperature :
    (live.params.wf = true ∧ live.params.cmdMatch ≠ live.params.cmdSearch ∧
      live.params.cmdReadSp ≠ live.params.cmdConvert) ∧
    (bus ([dev addrB] ++ dev addrA :: [dev addrC])).line.env =
      .refEnv true ([dev addrB] ++ dev addrA :: [dev addrC]) ∧
    (dev addrA).sane live.params = true ∧
    (∀ e ∈ [dev addrB] ++ [dev addrC], e.rom ≠ (dev addrA).rom) ∧
    live.params.tConv (dev addrA).res ≤ live.params.tConv 3 := by decide +kernel

theorem witness_LoadGlyphWritesItsSlot :
    (1 : Byte).toNat < Config.nslots ∧ (2 : Byte).toNat ≥ Config.nslots ∧ live.undef = false ∧
    (∀ y, y < 8 → 0 ≠ cgAddr 1 y) := by decide

theorem witness_SetCursorMovesTheWriteHead :
    ((15 : Byte).toNat < live.params.cols ∧ (1 : Byte).toNat < live.params.rows) ∧
    live.undef = false ∧
    (16 : Byte).toNat ≥ live.params.cols ∧ (2 : Byte).toNat ≥ live.params.rows := by decide

/-- In the last column, and one column before it. -/
theorem witness_WriteCharWritesOneCell :
    ((at_ 15 1).params.wf = true ∧ (at_ 15 1).undef = false ∧ (at_ 15 1).curValid = true ∧
      (at_ 15 1).curCol.toNat < (at_ 15 1).params.cols ∧ (at_ 15 1).curRow.toNat < (at_ 15 1).params.rows ∧
      (at_ 15 1).curCol.toNat = (at_ 15 1).params.cols - 1) ∧
    (at_ 14 0).curValid = true ∧ (at_ 14 0).curCol.toNat < (at_ 14 0).params.cols ∧
      (at_ 14 0).curRow.toNat < (at_ 14 0).params.rows ∧ (at_ 14 0).curCol.toNat ≠ (at_ 14 0).params.cols - 1 := by
  decide

/-- An exact fit, and a text that ends one column earlier. -/
theorem witness_PrintFillsTheCells :
    ((at_ 13 1).params.wf = true ∧ (at_ 13 1).undef = false ∧ (at_ 13 1).curValid = true ∧
      (at_ 13 1).curCol.toNat < (at_ 13 1).params.cols ∧ (at_ 13 1).curRow.toNat < (at_ 13 1).params.rows ∧
      (at_ 13 1).curCol.toNat + [0x41, 0x42, (0x43 : Byte)].length = (at_ 13 1).params.cols) ∧
    (at_ 13 1).curCol.toNat + [0x41, (0x42 : Byte)].length < (at_ 13 1).params.cols := by decide

/-- A text one character too long, an invalid cursor, and a state after an UNDEFINED write. -/
theorem witness_UndefinedWritesTouchTheDisplayOnly :
    ((at_ 13 1).params.wf = true ∧ [0x41, 0x42, 0x43, (0x44 : Byte)] ≠ [] ∧ (at_ 13 1).undef = false ∧
      (at_ 13 1).curCol.toNat < (at_ 13 1).params.cols ∧ (at_ 13 1).curRow.toNat < (at_ 13 1).params.rows ∧
      (at_ 13 1).curCol.toNat + [0x41, 0x42, 0x43, (0x44 : Byte)].length > (at_ 13 1).params.cols) ∧
    (State.reset.undef = false ∧ State.reset.curValid = false) ∧
    ∃ s t, s.undef = true ∧ exec (.lcdClearRegion 0 0 1) s = .next t :=
  ⟨by decide, by decide, ⟨{ State.reset with undef := true }, _, rfl, rfl⟩⟩

/-- A region that ends at the last column, one that passes it, and one that starts outside. -/
theorem witness_ClearRegionBlanksItsCells :
    ((10 : Byte).toNat < live.params.cols ∧ (1 : Byte).toNat < live.params.rows ∧
      (10 : Byte).toNat + (6 : Byte).toNat ≤ live.params.cols) ∧ live.undef = false ∧
    (10 : Byte).toNat + (7 : Byte).toNat > live.params.cols ∧ (16 : Byte).toNat ≥ live.params.cols ∧
    (2 : Byte).toNat ≥ live.params.rows := by decide

theorem witness_ClearThenPrintLeavesNoRemnants :
    live.params.wf = true ∧ live.undef = false ∧ (0 : Byte).toNat < live.params.cols ∧ (1 : Byte).toNat < live.params.rows ∧
    (0 : Byte).toNat + (7 : Byte).toNat ≤ live.params.cols ∧
    [0x35, 0x2E, (0x30 : Byte)].length ≤ (7 : Byte).toNat := by decide

theorem witness_DecimalTextIsTheNumber : (10 : Nat) ≠ 0 ∧ 9999 ≤ 9999 := by decide

theorem witness_PrintNumPrintsTheNumber :
    (after (at_ 0 1) [0x43, 3, 0x2D, 0x32, 0x35]).map (·.undef) = some false := by decide

/-- The largest legal fraction, the smallest illegal one, and both ways of opposite signs. -/
theorem witness_PrintTempPrintsThePair :
    ((9999 : Half).toInt.natAbs ≤ 9999 ∧ ¬((0 : Half).toInt > 0 ∧ (9999 : Half).toInt < 0) ∧
      ¬((0 : Half).toInt < 0 ∧ (9999 : Half).toInt > 0)) ∧
    (after (at_ 0 1) [0x43, 6, 0x30, 0x2E, 0x39, 0x39, 0x39, 0x39]).map (·.undef) = some false ∧
    (10000 : Half).toInt.natAbs > 9999 ∧
    ((1 : Half).toInt > 0 ∧ (0xFFFF : Half).toInt < 0) ∧
    (0xFFFF : Half).toInt < 0 ∧ (1 : Half).toInt > 0 := by decide

theorem witness_CtrlSetsTheDisplayFlags : live.undef = false := rfl

/-- Slot 1 in the cell (1, 15). -/
theorem witness_LoadedGlyphShowsAtOnce : ∃ s : State,
    (1 : Byte).toNat < Config.nslots ∧ s.undef = false ∧ s.dispOn = true ∧ s.curVis = false ∧
    ddCell s (ddAddr s.params 1 15) = 1 :=
  ⟨setDisplayFlags true false (writeDd 31 1 live), by decide, by decide, by decide, by decide,
    by decide⟩

/-- The valid visible cursor on a cell that is not blank, and a blank without a visible cursor while
`CUR_VALID` = 0. -/
theorem witness_PictureShowsBlanksAndTheCursor :
    (∃ s : State, s.curValid = true ∧ s.dispOn = true ∧ s.curVis = true ∧ s.undef = false ∧
      s.curRow.toNat = 1 ∧ s.curCol.toNat = 15 ∧ ddCell s (ddAddr s.params 1 15) = 0x41) ∧
    ∃ s : State, s.curValid = false ∧ s.curVis = false ∧
      ddCell s (ddAddr s.params 1 15) = 0x20 :=
  ⟨⟨setDisplayFlags true true (writeDd 31 0x41 live), by decide, by decide, by decide, by decide,
      by decide, by decide, by decide⟩,
    ⟨setDisplayFlags true false (writeDd 31 0x20 State.reset), by decide, by decide, by decide⟩⟩

end Sys2Proof.Tests
end

section
/-! SUPPORT. What a step does with the bytes at `CP`, one lemma per outcome of the decoder (R106). -/

namespace Sys2Proof.Machine

variable {s : State}

theorem step_of_illegalOpcode {op : Byte} (h : decode (s.cmd.drop s.cp) = .illegalOpcode op) :
    step s = .next (illegalOpcode s) := by
  simp only [step, fetchBytes, h]

theorem step_of_incomplete (h : decode (s.cmd.drop s.cp) = .incomplete) :
    step s = .fault .awaitingCommand := by
  simp only [step, fetchBytes, h]

end Sys2Proof.Machine
end

section
/-! SUPPORT. The decoder reads a stream: what it has made of some bytes, more bytes behind them do not
change (R106). -/

namespace Sys2Proof

/-- The same answer with more unread bytes behind it. -/
def Decoded.extend (more : List Byte) : Decoded → Decoded
  | .command i rest => .command i (rest ++ more)
  | .illegalOpcode op => .illegalOpcode op
  | .incomplete => .incomplete

/-- A reader that has enough bytes answers the same when more follow. -/
def Streaming (read : List Byte → Decoded) : Prop :=
  ∀ bytes more, read bytes ≠ .incomplete → read (bytes ++ more) = (read bytes).extend more

theorem streaming_operand1 (f : Byte → Instr) : Streaming (operand1 f)
  | _ :: _, _, _ => rfl
  | [], _, h => absurd rfl h

theorem streaming_operand2 (f : Byte → Byte → Instr) : Streaming (operand2 f)
  | _ :: _ :: _, _, _ => rfl
  | [], _, h | [_], _, h => absurd rfl h

theorem streaming_operand3 (f : Byte → Byte → Byte → Instr) : Streaming (operand3 f)
  | _ :: _ :: _ :: _, _, _ => rfl
  | [], _, h | [_], _, h | [_, _], _, h => absurd rfl h

theorem streaming_operand4 (f : Byte → Byte → Byte → Byte → Instr) : Streaming (operand4 f)
  | _ :: _ :: _ :: _ :: _, _, _ => rfl
  | [], _, h | [_], _, h | [_, _], _, h | [_, _, _], _, h => absurd rfl h

theorem streaming_operand8 (f : Bytes8 → Instr) : Streaming (operand8 f) := by
  intro bytes more h
  unfold operand8 at h
  split at h
  · rfl
  · exact absurd rfl h

theorem streaming_operandGlyph : Streaming operandGlyph
  | slot :: rest, more, h => streaming_operand8 (.lcdLoadGlyph slot) rest more h
  | [], _, h => absurd rfl h

theorem splitText_append {n : Nat} {bytes text rest : List Byte} (more : List Byte)
    (h : splitText n bytes = some (text, rest)) :
    splitText n (bytes ++ more) = some (text, rest ++ more) := by
  induction n, bytes using splitText.induct generalizing text rest with
  | case1 rest' => simp_all [splitText]
  | case2 n => simp [splitText] at h
  | case3 n c bytes text' rest' hs ih => simp_all [splitText, ih hs]
  | case4 n c bytes hs ih => simp [splitText, hs] at h

theorem streaming_operandText : Streaming operandText
  | [], _, h => absurd rfl h
  | n :: bytes, more, h => by
    cases hs : splitText n.toNat bytes with
    | none => simp [operandText, hs] at h
    | some p => simp [operandText, hs, splitText_append more hs, Decoded.extend]

/-- Every line of the opcode map answers at once or reads its operands with one of the readers above
(R94). -/
theorem streaming_decodeOperands (op : Byte) : Streaming (decodeOperands op) := by
  intro bytes more h
  unfold decodeOperands at h ⊢
  split at h
  case h_2 | h_7 | h_25 => exact streaming_operand1 _ _ _ h
  case h_14 | h_24 | h_28 => exact streaming_operand2 _ _ _ h
  case h_27 => exact streaming_operand3 _ _ _ h
  case h_29 => exact streaming_operand4 _ _ _ h
  case h_11 | h_12 | h_13 => exact streaming_operand8 _ _ _ h
  case h_23 => exact streaming_operandGlyph _ _ h
  case h_26 => exact streaming_operandText _ _ h
  all_goals rfl

theorem streaming_decode : Streaming decode
  | [], _, h => absurd rfl h
  | op :: bytes, more, h => streaming_decodeOperands op bytes more h

/-- Bytes that more bytes complete to a command with nothing left over are no command yet. -/
theorem decode_eq_incomplete_of_append {sent missing : List Byte} {i : Instr}
    (h : decode (sent ++ missing) = .command i []) (hm : missing ≠ []) :
    decode sent = .incomplete := by
  by_contra hne
  rw [streaming_decode sent missing hne] at h
  cases hd : decode sent <;> simp_all [Decoded.extend]

end Sys2Proof
end

section
/-! SUPPORT. The encoding read back by the decoder (R91 to R96). -/

namespace Sys2Proof

theorem halfOf_lowByte_highByte (v : Half) : halfOf (lowByte v) (highByte v) = v := by
  unfold halfOf lowByte highByte
  exact BitVec.extractLsb'_append_extractLsb'

theorem splitText_length (text : List Byte) : splitText text.length text = some (text, []) := by
  induction text with
  | nil => rfl
  | cons c text ih => simp [splitText, ih]

/-- Only a text carries a condition: its length must survive the count byte (R96). -/
theorem decode_encode {i : Instr} (hwf : i.wellFormed = true) :
    decode (encode i) = .command i [] := by
  cases i with
  | btWriteBit b => cases b <;> rfl
  | sdDecode reg => simp [decode, encode, decodeOperands, operand2, halfOf_lowByte_highByte]
  | sdWait res => revert res; decide
  | sdSetRes res => revert res; decide
  | lcdPrint text =>
    have hle : text.length ≤ 255 := of_decide_eq_true hwf
    have hlen : text.length % 256 = text.length := Nat.mod_eq_of_lt (by omega)
    simp [decode, encode, decodeOperands, operandText, hlen, splitText_length]
  | lcdPrintNum v => simp [decode, encode, decodeOperands, operand2, halfOf_lowByte_highByte]
  | lcdPrintTemp ti tf => simp [decode, encode, decodeOperands, operand4, halfOf_lowByte_highByte]
  | lcdCtrl d c => cases d <;> cases c <;> rfl
  | _ => rfl

end Sys2Proof
end

section
/-! SUPPORT. The illegal opcode byte (R100). -/

namespace Sys2Proof.Machine

/-- No line of the opcode map is of a byte that matches no row of the table. -/
theorem toNat_ne_of_no_row {op : Byte} (h : ∀ r ∈ opcodeRows, op &&& r.1 ≠ r.2) (k : Nat)
    (hk : ∃ r ∈ opcodeRows, BitVec.ofNat 8 k &&& r.1 = r.2) : op.toNat ≠ k := by
  obtain ⟨r, hr, hmatch⟩ := hk
  rintro rfl
  exact h r hr (by simpa using hmatch)

theorem decodeOperands_of_no_row {op : Byte} (h : ∀ r ∈ opcodeRows, op &&& r.1 ≠ r.2)
    (rest : List Byte) : decodeOperands op rest = .illegalOpcode op := by
  unfold decodeOperands
  split
  case h_34 => rfl
  all_goals exact absurd ‹op.toNat = _› (toNat_ne_of_no_row h _ (by decide))

end Sys2Proof.Machine
end

section
/-! SUPPORT. The statements of 30_encoding.md about incomplete and illegal commands. -/

namespace Sys2Proof.Machine

/-- Settles O16: the bytes sent are no command yet, since the missing ones complete them to one. -/
theorem incompleteCommandHasNoStep : Obligations.IncompleteCommandHasNoStep := by
  intro s i sent missing hwf henc hmissing hsent
  have hdec : decode (sent ++ missing) = .command i [] := henc ▸ decode_encode hwf
  exact step_of_incomplete (hsent ▸ decode_eq_incomplete_of_append hdec hmissing)

/-- Settles O17: the decoder answers the illegal byte, and its response moves `CP` by one. -/
theorem illegalOpcodeIsConsumedAlone : Obligations.IllegalOpcodeIsConsumedAlone := by
  intro s op rest hrow hcmd
  have hdec : decode (s.cmd.drop s.cp) = .illegalOpcode op := by
    rw [hcmd]
    exact decodeOperands_of_no_row hrow rest
  have hstep : step s = .next (respond 1 .errIllegal [] s) := step_of_illegalOpcode hdec
  refine ⟨_, hstep, completed_respond _ _ _ rfl rfl, ?_,
    nonDisplayKept_respond _ _ _ (.refl s), .respond _ _ _ (.refl s)⟩
  simp [← List.drop_drop, hcmd]

end Sys2Proof.Machine
end

section
/-! SUPPORT. An operation that is one activity of the line and one response: what it leaves alone. -/

namespace Sys2Proof.Machine

variable {s t : State} (len : Nat) (status : Status) (payload : List Byte)

theorem SearchKept.respond (h : SearchKept s t) : SearchKept s (respond len status payload t) := by
  obtain ⟨hrom, hld, hdone⟩ := h
  exact ⟨by simp [hrom], by simp [hld], by simp [hdone]⟩

theorem PortsKept.respond (h : PortsKept s t) : PortsKept s (respond len status payload t) := by
  obtain ⟨hcmd, hdiag⟩ := h
  exact ⟨by simp [hcmd], by simp [hdiag]⟩

/-! ## A response after line activity alone -/

variable (l : Line)

theorem searchKept_respond_line : SearchKept s (respond len status payload { s with line := l }) :=
  .respond _ _ _ ⟨rfl, rfl, rfl⟩

theorem portsKept_respond_line : PortsKept s (respond len status payload { s with line := l }) :=
  .respond _ _ _ ⟨rfl, rfl⟩

theorem displayKept_respond_line : DisplayKept s (respond len status payload { s with line := l }) :=
  .respond _ _ _ (displayKept_of_fields rfl rfl rfl rfl rfl rfl rfl rfl rfl)

theorem completed_respond_line :
    Completed len status.code payload s (respond len status payload { s with line := l }) :=
  completed_respond _ _ _ rfl rfl

end Sys2Proof.Machine
end

section
/-! SUPPORT. A byte on the line is its eight bits, least significant first (R13, R124, R125). -/

namespace Sys2Proof.Machine

variable (p : Params)

/-! ## Writing -/

theorem bitsOf_eq_map_range (v : Byte) : bitsOf v = (List.range 8).map v.getLsbD := rfl

theorem writeBits_eq_foldl (bs : List Bool) (l : Line) :
    writeBits p bs l = bs.foldl (fun l b => lineWrite p b l) l := by
  induction bs generalizing l with
  | nil => rfl
  | cons b bs ih => exact ih _

theorem writeByte_pull (v : Byte) (l : Line) : (writeByte p v l).pull = false := rfl

theorem writeByte_eq_foldl_lineWrite (v : Byte) (l : Line) :
    writeByte p v l = (List.range 8).foldl (fun l i => lineWrite p (v.getLsbD i) l) l := by
  rw [writeByte, writeBits_eq_foldl, bitsOf_eq_map_range, List.foldl_map]

/-! ## Reading -/

theorem getLsbD_setByteBit (v : Byte) {i : Nat} (hi : i < 8) (b : Bool) (j : Nat) :
    (setByteBit v i b).getLsbD j = if j = i then b else v.getLsbD j := by
  have hone : (1#8 <<< i).getLsbD j = decide (i = j) := by
    rw [← BitVec.twoPow_eq, BitVec.getLsbD_twoPow, decide_eq_true hi, Bool.true_and]
  have hset : (if b then 1#8 <<< i else 0#8).getLsbD j = (b && decide (i = j)) := by
    rw [apply_ite (BitVec.getLsbD · j), hone]
    cases b <;> simp
  rw [setByteBit, BitVec.getLsbD_or, BitVec.getLsbD_and, BitVec.getLsbD_not, hone, hset]
  by_cases hji : j = i
  · simp [hji]
  · have hlt : v.getLsbD j = true → j < 8 := BitVec.lt_of_getLsbD
    simp only [Ne.symm hji, hji]
    simpa using hlt

/-- The line after n read slots. -/
def afterReads (n : Nat) (l : Line) : Line := (fun l => (lineRead p l).2)^[n] l

@[simp] theorem afterReads_zero (l : Line) : afterReads p 0 l = l := rfl

theorem afterReads_succ (n : Nat) (l : Line) :
    afterReads p (n + 1) l = afterReads p n (lineRead p l).2 := rfl

theorem afterReads_succ' (n : Nat) (l : Line) :
    afterReads p (n + 1) l = (lineRead p (afterReads p n l)).2 :=
  Function.iterate_succ_apply' _ n l

theorem afterReads_eq_foldl (n : Nat) (l : Line) :
    afterReads p n l = (List.range n).foldl (fun l _ => (lineRead p l).2) l := by
  rw [List.foldl_const (fun l => (lineRead p l).2), List.length_range, afterReads]

theorem afterReads_events (n : Nat) (l : Line) :
    (afterReads p n l).events =
      ((List.range n).map fun k => LineEvent.read (lineRead p (afterReads p k l)).1).reverse
        ++ l.events := by
  induction n with
  | zero => rfl
  | succ n ih => simp [afterReads_succ', ih, List.range_succ]

theorem readBitsFrom_succ (n i : Nat) (v : Byte) (l : Line) :
    readBitsFrom p (n + 1) i v l =
      readBitsFrom p n (i + 1) (setByteBit v i (lineRead p l).1) (lineRead p l).2 := rfl

theorem readBitsFrom_snd (n i : Nat) (v : Byte) (l : Line) :
    (readBitsFrom p n i v l).2 = afterReads p n l := by
  induction n generalizing i v l with
  | zero => rfl
  | succ n ih => rw [readBitsFrom_succ, ih, afterReads_succ]

/-- Reading from bit i on leaves the bits below i. -/
theorem readBitsFrom_getLsbD_of_lt {n i j : Nat} (v : Byte) (l : Line) (hn : i + n ≤ 8) (hj : j < i) :
    (readBitsFrom p n i v l).1.getLsbD j = v.getLsbD j := by
  induction n generalizing i v l with
  | zero => rfl
  | succ n ih =>
    rw [readBitsFrom_succ, ih _ _ (by omega) (by omega), getLsbD_setByteBit _ (by omega),
      if_neg (by omega)]

/-- The k-th slot of a read from bit i on gives bit i + k. -/
theorem readBitsFrom_getLsbD {n i k : Nat} (v : Byte) (l : Line) (hn : i + n ≤ 8) (hk : k < n) :
    (readBitsFrom p n i v l).1.getLsbD (i + k) = (lineRead p (afterReads p k l)).1 := by
  induction n generalizing i k v l with
  | zero => omega
  | succ n ih =>
    rw [readBitsFrom_succ]
    cases k with
    | zero =>
      rw [readBitsFrom_getLsbD_of_lt _ _ _ (by omega) (by omega), getLsbD_setByteBit _ (by omega),
        Nat.add_zero, if_pos rfl, afterReads_zero]
    | succ k => rw [afterReads_succ, ← ih (i := i + 1) _ _ (by omega) (by omega), Nat.add_right_comm,
      Nat.add_assoc]

theorem readByte_snd (l : Line) : (readByte p l).2 = afterReads p 8 l := readBitsFrom_snd ..

/-- Bit i of the byte is the i-th bit sampled (R125). -/
theorem readByte_getLsbD {i : Nat} (hi : i < 8) (l : Line) :
    (readByte p l).1.getLsbD i = (lineRead p (afterReads p i l)).1 := by
  have h := readBitsFrom_getLsbD p 0 l (i := 0) (by omega) hi
  rwa [Nat.zero_add] at h

theorem readByte_events (l : Line) :
    (readByte p l).2.events =
      ((List.range 8).map fun i => LineEvent.read ((readByte p l).1.getLsbD i)).reverse
        ++ l.events := by
  rw [readByte_snd, afterReads_events]
  congr 2
  refine List.map_congr_left fun i hi => ?_
  rw [readByte_getLsbD p (List.mem_range.mp hi)]

end Sys2Proof.Machine
end

section
/-! SUPPORT. Reading a line of the reference environment: the wired AND, and devices that are idle
(R55, R73). -/

namespace Sys2Proof.Machine

variable (p : Params)

theorem envLevel_refEnv_iff (pullup : Bool) (devices : List Device) (events : List LineEvent) :
    envLevel (.refEnv pullup devices) events = true ↔
      pullup = true ∧ ∀ d ∈ devices, devLevel d = true := by
  simp [envLevel]

theorem devLevel_of_idle {d : Device} (h : d.mode = .idle) : devLevel d = true := by
  simp [devLevel, h]

theorem devAfterRead_of_idle {d : Device} (h : d.mode = .idle) : devAfterRead p d = d := by
  obtain ⟨rom, res, sp, nextTemp, pending, mode⟩ := d
  subst h
  rfl

theorem envLevel_of_idle {devices : List Device} (h : ∀ d ∈ devices, d.mode = .idle)
    (events : List LineEvent) : envLevel (.refEnv true devices) events = true :=
  (envLevel_refEnv_iff ..).mpr ⟨rfl, fun d hd => devLevel_of_idle (h d hd)⟩

theorem envAfterRead_of_idle {devices : List Device} (h : ∀ d ∈ devices, d.mode = .idle)
    (pullup : Bool) : envAfterRead p (.refEnv pullup devices) = .refEnv pullup devices := by
  have hmap : devices.map (devAfterRead p) = devices :=
    (List.map_congr_left fun d hd => devAfterRead_of_idle p (h d hd)).trans (List.map_id' _)
  rw [envAfterRead, hmap]

theorem afterReads_env_of_idle {devices : List Device} (h : ∀ d ∈ devices, d.mode = .idle)
    {pullup : Bool} {l : Line} (hl : l.env = .refEnv pullup devices) (n : Nat) :
    (afterReads p n l).env = .refEnv pullup devices := by
  induction n with
  | zero => exact hl
  | succ n ih => rw [afterReads_succ', lineRead_env, ih, envAfterRead_of_idle p h]

/-- Where no device sends, every slot samples the released line (R125). -/
theorem readByte_of_idle {devices : List Device} (h : ∀ d ∈ devices, d.mode = .idle)
    {l : Line} (hl : l.env = .refEnv true devices) : (readByte p l).1 = 0xFF#8 := by
  change _ = BitVec.allOnes 8
  refine BitVec.eq_of_getLsbD_eq fun i hi => ?_
  rw [readByte_getLsbD p hi, lineRead_fst, afterReads_env_of_idle p h hl, envLevel_of_idle h,
    BitVec.getLsbD_allOnes, decide_eq_true hi]

end Sys2Proof.Machine
end

section
/-! SUPPORT. Each operation of BT as the line activity it does and the response it gives (R121 to
R125). -/

namespace Sys2Proof.Machine

variable (s : State)

theorem exec_btReset :
    exec .btReset s = .next
      (respond 1 (if (lineReset s.line).1 then .ok else .errNoDevice) []
        { s with line := (lineReset s.line).2 }) := by
  simp only [exec, execBtReset]
  split <;> simp_all [raise]

theorem exec_btWriteBit (b : Bool) :
    exec (.btWriteBit b) s = .next (respond 1 .ok [] { s with line := lineWrite s.params b s.line }) :=
  rfl

theorem exec_btReadBit :
    exec .btReadBit s = .next
      (respond 1 .ok [flagByte (lineRead s.params s.line).1]
        { s with line := (lineRead s.params s.line).2 }) := rfl

theorem exec_btWriteByte (v : Byte) :
    exec (.btWriteByte v) s = .next
      (respond 2 .ok [] { s with line := writeByte s.params v s.line }) := rfl

theorem exec_btReadByte :
    exec .btReadByte s = .next
      (respond 1 .ok [(readByte s.params s.line).1]
        { s with line := (readByte s.params s.line).2 }) := rfl

end Sys2Proof.Machine
end

section
/-! SUPPORT. The statements of 40_bus_transport.md. -/

namespace Sys2Proof.Machine

/-- Settles O20: the presence bit of the one `LineReset` selects the status. -/
theorem busResetReportsPresence : Obligations.BusResetReportsPresence := by
  refine ⟨rfl, fun s => ⟨_, _, exec_btReset s, rfl, ?_⟩⟩
  refine ⟨?_, by simp, by simp, searchKept_respond_line .., respond_resCfg ..,
    portsKept_respond_line .., displayKept_respond_line .., fun pullup devices henv => ?_⟩
  · have hcode : (if envPresence s.line.env s.line.events then 0x00#8 else 0x01#8) =
        (if (lineReset s.line).1 then Status.ok else .errNoDevice).code := by
      rw [lineReset_fst]
      split <;> rfl
    rw [hcode]
    exact completed_respond_line ..
  · rw [respond_line, lineReset_env, henv]
    exact ⟨rfl, rfl⟩

/-- Settles O21: the line after the operation is the one `lineWrite`. -/
theorem writeBitIsOneWriteSlot : Obligations.WriteBitIsOneWriteSlot := by
  refine ⟨rfl, rfl, fun s b => ⟨_, exec_btWriteBit s b, ?_⟩⟩
  exact ⟨completed_respond_line .., by simp, by simp, by simp, searchKept_respond_line ..,
    respond_resCfg .., portsKept_respond_line .., displayKept_respond_line ..⟩

/-- Settles O22: the sampled bit is the payload, and in the reference environment the wired AND. -/
theorem readBitIsOneReadSlot : Obligations.ReadBitIsOneReadSlot := by
  refine ⟨rfl, fun s => ⟨_, _, exec_btReadBit s, rfl, ?_⟩⟩
  refine ⟨completed_respond_line .., by simp, by simp, by simp, searchKept_respond_line ..,
    respond_resCfg .., portsKept_respond_line .., displayKept_respond_line ..,
    fun pullup devices henv => ?_⟩
  rw [henv]
  refine ⟨envLevel_refEnv_iff .., ?_⟩
  rintro rfl hidle
  exact envLevel_of_idle hidle _

/-- Settles O23: a byte transfer is `lineWrite` folded over the bit numbers 0 to 7. -/
theorem writeByteIsEightWriteSlots : Obligations.WriteByteIsEightWriteSlots := by
  refine ⟨fun _ => rfl, fun s v => ⟨_, exec_btWriteByte s v, completed_respond_line .., ?_⟩⟩
  rw [respond_line]
  refine ⟨?_, writeByte_pull .., writeByte_eq_foldl_lineWrite ..,
    searchKept_respond_line .., respond_resCfg .., portsKept_respond_line ..,
    displayKept_respond_line ..⟩
  simp [writeByte_events, bitsOf_eq_map_range]

/-- Settles O24: bit i of the byte is the sample of slot i; idle devices leave every sample 1. -/
theorem readByteIsEightReadSlots : Obligations.ReadByteIsEightReadSlots := by
  refine ⟨rfl, fun s => ⟨_, _, exec_btReadByte s, completed_respond_line .., ?_⟩⟩
  rw [respond_line]
  refine ⟨readByte_events .., ?_, ?_, searchKept_respond_line .., respond_resCfg ..,
    portsKept_respond_line .., displayKept_respond_line ..,
    fun devices henv hidle => readByte_of_idle _ hidle henv⟩
  · rw [readByte_snd, afterReads_succ', lineRead_pull]
  · rw [readByte_snd, afterReads_eq_foldl]

end Sys2Proof.Machine
end

section
/-! SUPPORT. The bits of an address: which byte holds a bit, and a bit read back after it was set
(R15, R145). -/

namespace Sys2Proof.Machine

theorem addrBit_eq_getLsbD_byteAt (a : Addr) (i : Nat) {m : Nat} (hm : m < 8) :
    addrBit a (8 * i + m + 1) = (byteAt a i).getLsbD m := by
  have hdiv : (8 * i + m + 1 - 1) / 8 = i := by omega
  have hmod : (8 * i + m + 1 - 1) % 8 = m := by omega
  rw [addrBit, hdiv, hmod]

theorem byteAt_setAddrBit (a : Addr) {k : Nat} (hk : k ≤ 64) (b : Bool) {i : Nat} (hi : i < 8) :
    byteAt (setAddrBit a k b) i =
      if i = (k - 1) / 8 then setByteBit (byteAt a i) ((k - 1) % 8) b else byteAt a i := by
  have hq : (k - 1) / 8 < 8 := by omega
  unfold setAddrBit
  generalize (k - 1) / 8 = q at hq
  interval_cases q <;> interval_cases i <;> rfl

theorem addrBit_setAddrBit (a : Addr) {k j : Nat} (hk : 1 ≤ k) (hk' : k ≤ 64) (hj : 1 ≤ j)
    (hj' : j ≤ 64) (b : Bool) : addrBit (setAddrBit a k b) j = if j = k then b else addrBit a j := by
  rw [addrBit, byteAt_setAddrBit a hk' b (by omega)]
  by_cases hbyte : (j - 1) / 8 = (k - 1) / 8
  · have hbit : (j - 1) % 8 = (k - 1) % 8 ↔ j = k := by omega
    simp only [if_pos hbyte, getLsbD_setByteBit _ (Nat.mod_lt (k - 1) (by decide : 0 < 8)), hbit,
      addrBit]
  · have hne : j ≠ k := by rintro rfl; exact hbyte rfl
    rw [if_neg hbyte, if_neg hne, addrBit]

/-- An address that differs from another in one bit keeps every byte but the one with that bit. -/
theorem byteAt_eq_of_flip {a a' : Addr} {k i : Nat}
    (hother : ∀ j, 1 ≤ j → j ≤ 64 → j ≠ k → addrBit a' j = addrBit a j) (hi : i < 8)
    (hne : i ≠ (k - 1) / 8) : byteAt a' i = byteAt a i := by
  refine BitVec.eq_of_getLsbD_eq fun m hm => ?_
  rw [← addrBit_eq_getLsbD_byteAt a' i hm, ← addrBit_eq_getLsbD_byteAt a i hm]
  exact hother _ (by omega) (by omega) (by omega)

end Sys2Proof.Machine
end

section
/-! SUPPORT. The CRC register is injective in its start and in every byte it takes, so it tells apart
any two blocks that differ in one byte (R150, R156). -/

namespace Sys2Proof.Machine

/-- The polynomial has its top bit, so the bit shifted out can be read back there. -/
theorem crcShift_getLsbD_seven (crc : Byte) : (crcShift crc).getLsbD 7 = crc.getLsbD 0 := by
  have hpoly : Config.crcPoly.getLsbD 7 = true := rfl
  have hshift : (crc >>> 1).getLsbD 7 = false := by simp
  unfold crcShift
  split
  · rw [BitVec.getLsbD_xor, hshift, hpoly, ‹crc.getLsbD 0 = true›]; rfl
  · rw [hshift, Bool.eq_false_of_not_eq_true ‹¬crc.getLsbD 0 = true›]

theorem crcShift_injective : Function.Injective crcShift := by
  intro x y h
  have hout : x.getLsbD 0 = y.getLsbD 0 := by
    rw [← crcShift_getLsbD_seven, h, crcShift_getLsbD_seven]
  have hrest : x >>> 1 = y >>> 1 := by
    unfold crcShift at h
    rw [hout] at h
    split at h
    · exact (BitVec.xor_left_inj _).mp h
    · exact h
  refine BitVec.eq_of_getLsbD_eq fun i _ => ?_
  cases i with
  | zero => exact hout
  | succ i =>
    have hbit := congrArg (BitVec.getLsbD · i) hrest
    simpa only [BitVec.getLsbD_ushiftRight, Nat.add_comm] using hbit

theorem crcShifts_injective (n : Nat) : Function.Injective (crcShifts n) := by
  induction n with
  | zero => exact Function.injective_id
  | succ n ih => exact ih.comp crcShift_injective

theorem crcByte_left_injective (v : Byte) : Function.Injective (crcByte · v) := fun _ _ h =>
  (BitVec.xor_left_inj _).mp (crcShifts_injective 8 h)

theorem crcByte_right_injective (crc : Byte) : Function.Injective (crcByte crc) := fun _ _ h =>
  (BitVec.xor_right_inj _).mp (crcShifts_injective 8 h)

theorem crcFrom_injective (block : List Byte) : Function.Injective (crcFrom · block) := by
  induction block with
  | nil => exact Function.injective_id
  | cons v block ih => exact ih.comp (crcByte_left_injective v)

theorem crcFrom_append (crc : Byte) (pre post : List Byte) :
    crcFrom crc (pre ++ post) = crcFrom (crcFrom crc pre) post := by
  induction pre generalizing crc with
  | nil => rfl
  | cons v pre ih => exact ih _

/-- Blocks that differ in one byte at most and have the same CRC are equal. -/
theorem eq_of_crc8_eq {pre post : List Byte} {v w : Byte}
    (h : crc8 (pre ++ v :: post) = crc8 (pre ++ w :: post)) : v = w := by
  simp only [crc8, crcFrom_append] at h
  exact crcByte_right_injective _ (crcFrom_injective post h)

theorem addrValid_iff (a : Addr) :
    addrValid a = true ↔ a.b7 = crc8 [a.b0, a.b1, a.b2, a.b3, a.b4, a.b5, a.b6] := by
  rw [addrValid, beq_iff_eq, eq_comm]

theorem crcByte_eq_zero_iff (crc v : Byte) : crcByte crc v = 0#8 ↔ crc = v := by
  have hself : crcByte v v = 0#8 := by rw [crcByte, BitVec.xor_self]; rfl
  exact ⟨fun h => crcByte_left_injective v (h.trans hself.symm), by rintro rfl; exact hself⟩

theorem addrValid_iff_crc8_toList (a : Addr) : addrValid a = true ↔ crc8 a.toList = 0#8 := by
  have hlist : a.toList = [a.b0, a.b1, a.b2, a.b3, a.b4, a.b5, a.b6] ++ [a.b7] := rfl
  rw [addrValid_iff, hlist, crc8, crc8, crcFrom_append, eq_comm]
  exact (crcByte_eq_zero_iff ..).symm

theorem toList_eq_map_byteAt (a : Addr) : a.toList = (List.range 8).map (byteAt a) := rfl

/-- Two valid addresses that agree in all bytes but one agree in that one too. -/
theorem byteAt_eq_of_valid {a a' : Addr} (h : addrValid a = true) (h' : addrValid a' = true) {q : Nat}
    (hq : q < 8) (hother : ∀ i, i < 8 → i ≠ q → byteAt a' i = byteAt a i) :
    byteAt a' q = byteAt a q := by
  have hsplit : List.range 8 = List.range q ++ q :: List.range' (q + 1) (7 - q) := by
    interval_cases q <;> rfl
  have hpre : (List.range q).map (byteAt a') = (List.range q).map (byteAt a) :=
    List.map_congr_left fun i hi => by
      rw [List.mem_range] at hi
      exact hother i (by omega) (by omega)
  have hpost : (List.range' (q + 1) (7 - q)).map (byteAt a') =
      (List.range' (q + 1) (7 - q)).map (byteAt a) :=
    List.map_congr_left fun i hi => by
      rw [List.mem_range'_1] at hi
      exact hother i (by omega) (by omega)
  rw [addrValid_iff_crc8_toList, toList_eq_map_byteAt, hsplit, List.map_append, List.map_cons] at h h'
  rw [hpre, hpost] at h'
  exact eq_of_crc8_eq (h'.trans h.symm)

end Sys2Proof.Machine
end

section
/-! SUPPORT. The 64 bit steps of a round on the line (R145, R147). -/

namespace Sys2Proof.Machine

variable (p : Params)

/-- The line after n bit steps that read two slots each and write the directions `dir 1 .. dir n`. -/
def bitSteps (dir : Nat → Bool) : (n : Nat) → Line → Line
  | 0, l => l
  | n + 1, l => lineWrite p (dir (n + 1)) (afterReads p 2 (bitSteps dir n l))

/-- The first bit of the pair read at bit k. -/
def firstRead (dir : Nat → Bool) (l : Line) (k : Nat) : Bool :=
  (lineRead p (bitSteps p dir (k - 1) l)).1

/-- The second bit of the pair read at bit k. -/
def secondRead (dir : Nat → Bool) (l : Line) (k : Nat) : Bool :=
  (lineRead p (afterReads p 1 (bitSteps p dir (k - 1) l))).1

theorem bitSteps_events (dir : Nat → Bool) (n : Nat) (l : Line) :
    (bitSteps p dir n l).events =
      ((List.range n).flatMap fun j =>
        [.read (firstRead p dir l (j + 1)), .read (secondRead p dir l (j + 1)),
          .write (dir (j + 1))]).reverse ++ l.events := by
  induction n with
  | zero => rfl
  | succ n ih =>
    have hreads : (afterReads p 2 (bitSteps p dir n l)).events =
        .read (secondRead p dir l (n + 1)) :: .read (firstRead p dir l (n + 1))
          :: (bitSteps p dir n l).events := rfl
    rw [bitSteps, lineWrite_events, hreads, ih]
    simp [List.range_succ]

theorem pairDir_of_ne {rom : Addr} {ld k : Nat} {b c : Bool} (h : b ≠ c) :
    pairDir rom ld k b c = b := if_neg h

theorem pairDir_self (rom : Addr) (ld k : Nat) (b : Bool) :
    pairDir rom ld k b b = collisionDir rom ld k := if_pos rfl

theorem collisionDir_of_lt {rom : Addr} {ld k : Nat} (h : k < ld) :
    collisionDir rom ld k = addrBit rom k := if_pos h

theorem collisionDir_self (rom : Addr) (ld : Nat) : collisionDir rom ld ld = true := by
  simp [collisionDir]

theorem collisionDir_of_gt {rom : Addr} {ld k : Nat} (h : ld < k) :
    collisionDir rom ld k = false := by
  simp [collisionDir, Nat.not_lt_of_lt h, Nat.ne_of_gt h]

variable {p} {rom a : Addr} {ld lz z left k : Nat} {t : Addr} {l l' : Line}

/-- One bit step of a round that completes. -/
theorem roundBits_succ_completed
    (h : roundBits p rom ld (left + 1) k lz t l = (.completed a z, l')) :
    let b := (lineRead p l).1
    let c := (lineRead p (afterReads p 1 l)).1
    ¬(b = true ∧ c = true) ∧
      roundBits p rom ld left (k + 1) (nextLastZero rom ld k b c lz)
        (setAddrBit t k (pairDir rom ld k b c))
        (lineWrite p (pairDir rom ld k b c) (afterReads p 2 l)) = (.completed a z, l') := by
  intro b c
  change (if b && c then (RoundEnd.noAnswer, _) else _) = _ at h
  split at h
  case isTrue => cases h
  case isFalse hpair => exact ⟨mt Bool.and_eq_true_iff.mpr hpair, h⟩

/-- The later bit steps leave the bits already assembled. -/
theorem addrBit_of_roundBits (h : roundBits p rom ld left k lz t l = (.completed a z, l'))
    (hleft : k + left = 65) {j : Nat} (hj : 1 ≤ j) (hjk : j < k) : addrBit a j = addrBit t j := by
  induction left generalizing k lz t l with
  | zero => cases h; rfl
  | succ left ih =>
    obtain ⟨-, hnext⟩ := roundBits_succ_completed h
    rw [ih hnext (by omega) (by omega), addrBit_setAddrBit t (by omega) (by omega) hj (by omega),
      if_neg (by omega)]

end Sys2Proof.Machine
end

section
/-! SUPPORT. A round that completes (R145 to R147). -/

namespace Sys2Proof.Machine

variable {p : Params} {rom a : Addr} {ld lz z left k n : Nat} {t : Addr} {l l' : Line}

/-- A bit step of a completed round, along the line its directions make: bit n + 1 of the address is
the direction written. -/
theorem roundBits_bitSteps
    (h : roundBits p rom ld (left + 1) (n + 1) lz t (bitSteps p (addrBit a) n l) =
      (.completed a z, l')) (hleft : n + 1 + left = 64) :
    let b := firstRead p (addrBit a) l (n + 1)
    let c := secondRead p (addrBit a) l (n + 1)
    ¬(b = true ∧ c = true) ∧ addrBit a (n + 1) = pairDir rom ld (n + 1) b c ∧
      roundBits p rom ld left (n + 2) (nextLastZero rom ld (n + 1) b c lz)
        (setAddrBit t (n + 1) (addrBit a (n + 1))) (bitSteps p (addrBit a) (n + 1) l) =
          (.completed a z, l') := by
  intro b c
  obtain ⟨hpair, hnext⟩ := roundBits_succ_completed h
  have hdir : addrBit a (n + 1) = pairDir rom ld (n + 1) b c := by
    rw [addrBit_of_roundBits hnext (by omega) (by omega) (Nat.lt_succ_self _),
      addrBit_setAddrBit t (by omega) (by omega) (by omega) (by omega), if_pos rfl]
    rfl
  refine ⟨hpair, hdir, ?_⟩
  rw [bitSteps, hdir]
  exact hnext

/-- The line after a completed round, and the direction rule at each of its bits (R146, R147). -/
theorem roundBits_follows_pairDir
    (h : roundBits p rom ld left (n + 1) lz t (bitSteps p (addrBit a) n l) = (.completed a z, l'))
    (hleft : n + left = 64) :
    l' = bitSteps p (addrBit a) 64 l ∧ ∀ k, n < k → k ≤ 64 →
      ¬(firstRead p (addrBit a) l k = true ∧ secondRead p (addrBit a) l k = true) ∧
      addrBit a k = pairDir rom ld k (firstRead p (addrBit a) l k) (secondRead p (addrBit a) l k) := by
  induction left generalizing n lz t with
  | zero =>
    cases h
    obtain rfl : n = 64 := hleft
    exact ⟨rfl, fun k hk hk' => by omega⟩
  | succ left ih =>
    obtain ⟨hpair, hdir, hnext⟩ := roundBits_bitSteps h (by omega)
    obtain ⟨hline, hrest⟩ := ih hnext (by omega)
    refine ⟨hline, fun k hk hk' => ?_⟩
    obtain rfl | hlt : n + 1 = k ∨ n + 1 < k := by omega
    · exact ⟨hpair, hdir⟩
    · exact hrest k hlt hk'

/-- Bit k is a collision where branch 0 was taken (R147). -/
def ZeroTaken (p : Params) (a : Addr) (l : Line) (k : Nat) : Prop :=
  firstRead p (addrBit a) l k = secondRead p (addrBit a) l k ∧ addrBit a k = false

/-- The direction written at a collision is the branch taken there, so `last_zero` moves exactly where
branch 0 is taken. -/
theorem nextLastZero_cases (hdir : addrBit a k =
      pairDir rom ld k (firstRead p (addrBit a) l k) (secondRead p (addrBit a) l k)) :
    let next := nextLastZero rom ld k (firstRead p (addrBit a) l k) (secondRead p (addrBit a) l k) lz
    (ZeroTaken p a l k ∧ next = k) ∨ (¬ZeroTaken p a l k ∧ next = lz) := by
  have hiff : ZeroTaken p a l k ↔ firstRead p (addrBit a) l k = secondRead p (addrBit a) l k ∧
      collisionDir rom ld k = false :=
    and_congr_right fun heq => by rw [hdir, heq, pairDir_self]
  by_cases hzero : ZeroTaken p a l k
  · exact .inl ⟨hzero, if_pos (hiff.mp hzero)⟩
  · exact .inr ⟨hzero, if_neg (mt hiff.mpr hzero)⟩

/-- `last_zero` is the last collision where branch 0 was taken, or what it was before (R147). -/
theorem roundBits_lastZero
    (h : roundBits p rom ld left (n + 1) lz t (bitSteps p (addrBit a) n l) = (.completed a z, l'))
    (hleft : n + left = 64) (hlz : lz ≤ n) :
    (z = lz ∨ (n < z ∧ z ≤ 64 ∧ ZeroTaken p a l z)) ∧
      ∀ k, n < k → z < k → k ≤ 64 → ¬ZeroTaken p a l k := by
  induction left generalizing n lz t with
  | zero =>
    cases h
    exact ⟨.inl rfl, fun k _ _ _ => by omega⟩
  | succ left ih =>
    obtain ⟨-, hdir, hnext⟩ := roundBits_bitSteps h (by omega)
    obtain ⟨hzero, hlz'⟩ | ⟨hzero, hlz'⟩ := nextLastZero_cases hdir (lz := lz)
    all_goals
      rw [hlz'] at hnext
      obtain ⟨hz, hlast⟩ := ih hnext (by omega) (by omega)
    · refine ⟨?_, fun k hk hzk hk' => hlast k (by omega) hzk hk'⟩
      obtain rfl | ⟨hz, hz'⟩ := hz
      · exact .inr ⟨by omega, by omega, hzero⟩
      · exact .inr ⟨by omega, hz'⟩
    · refine ⟨hz.imp_right fun ⟨hz, hz'⟩ => ⟨by omega, hz'⟩, fun k hk hzk hk' => ?_⟩
      obtain rfl | hlt : n + 1 = k ∨ n + 1 < k := by omega
      · exact hzero
      · exact hlast k hlt hzk hk'

/-! ## The reset pulse and the search command before the bit steps -/

/-- The line before the first bit step of a round (R145). -/
def roundStart (p : Params) (l : Line) : Line := writeByte p p.cmdSearch (lineReset l).2

theorem round_completed (h : round p rom ld l = (.completed a z, l')) :
    (lineReset l).1 = true ∧
      roundBits p rom ld 64 1 0 zeroAddr (roundStart p l) = (.completed a z, l') := by
  unfold round at h
  rw [roundStart]
  split at h <;> rename_i heq <;> rw [heq]
  · exact ⟨rfl, h⟩
  · cases h

theorem roundStart_events (hpresence : (lineReset l).1 = true) :
    (roundStart p l).events =
      (.reset true :: (bitsOf p.cmdSearch).map LineEvent.write).reverse ++ l.events := by
  rw [lineReset_fst] at hpresence
  simp [roundStart, writeByte_events, hpresence]

/-- What the line saw of a round whose bit steps are done (R145). -/
theorem bitSteps_roundStart_events (hpresence : (lineReset l).1 = true) (dir : Nat → Bool) :
    (bitSteps p dir 64 (roundStart p l)).events =
      (roundEvents p (firstRead p dir (roundStart p l)) (secondRead p dir (roundStart p l))
        dir).reverse ++ l.events := by
  rw [bitSteps_events, roundStart_events hpresence, roundEvents, List.reverse_append,
    List.append_assoc]

end Sys2Proof.Machine
end

section
/-! SUPPORT. Each operation of DS that ends at once, as the response it gives (R142, R143, R151). -/

namespace Sys2Proof.Machine

variable (s : State)

theorem exec_dsInit : exec .dsInit s = .next (respond 1 .ok [] (clearSearch s)) := rfl

theorem exec_dsVerify (a : Addr) :
    exec (.dsVerify a) s =
      .next (respond 9 (if addrValid a then .ok else .errCrcMismatch) [] s) := by
  simp only [exec, execDsVerify]
  split <;> rfl

/-- `DS.NEXT` has at least one round to run. -/
theorem exec_dsNext : ∃ rounds, exec .dsNext s = .next (searchLoop (rounds + 1) s) :=
  ⟨Config.roundsPerStep - 1, rfl⟩

variable {s}

theorem exec_dsNext_of_done (h : s.done = true) :
    exec .dsNext s = .next (respond 1 .ok (List.replicate 9 0x00#8) s) := by
  obtain ⟨rounds, hexec⟩ := exec_dsNext s
  rw [hexec, searchLoop, if_pos h]
  rfl

theorem round_of_no_presence {p : Params} {rom : Addr} {ld : Nat} {l : Line}
    (h : envPresence l.env l.events = false) :
    round p rom ld l = (.noPresence, (lineReset l).2) := by
  have hreset : lineReset l = (false, (lineReset l).2) := Prod.ext h rfl
  rw [round, hreset]

theorem exec_dsNext_of_no_presence (hdone : s.done = false)
    (h : envPresence s.line.env s.line.events = false) :
    exec .dsNext s = .next (respond 1 .errNoDevice (List.replicate 9 0x00#8)
      (endPass { s with line := (lineReset s.line).2 })) := by
  obtain ⟨rounds, hexec⟩ := exec_dsNext s
  rw [hexec, searchLoop, if_neg (by simp [hdone]), round_of_no_presence h]
  rfl

end Sys2Proof.Machine
end

section
/-! SUPPORT. The statements of 41_device_search.md about `DS.INIT`, `DS.VERIFY`, a round, the checksum
and a pass without presence. -/

namespace Sys2Proof.Machine

/-- Settles O32: the pairs are those read along the line that the address's own bits make. -/
theorem roundFollowsTheSearchRules : Obligations.RoundFollowsTheSearchRules := by
  intro p rom ld lastZero l l' a h
  obtain ⟨hpresence, hbits⟩ := round_completed h
  obtain ⟨rfl, hdirs⟩ := roundBits_follows_pairDir (n := 0) (l := roundStart p l) hbits rfl
  obtain ⟨hz, hlast⟩ := roundBits_lastZero (n := 0) (l := roundStart p l) hbits rfl (le_refl 0)
  refine ⟨_, _, bitSteps_roundStart_events hpresence _, fun k hk hk' => ?_, ?_, ?_, ?_⟩
  · obtain ⟨hpair, hdir⟩ := hdirs k hk hk'
    refine ⟨hpair, fun hne => ?_, fun heq hlt => ?_, fun heq hld => ?_, fun heq hgt => ?_⟩
    · rw [hdir, pairDir_of_ne hne]
    · rw [hdir, heq, pairDir_self, collisionDir_of_lt hlt]
    · rw [hdir, heq, pairDir_self, hld, collisionDir_self]
    · rw [hdir, heq, pairDir_self, collisionDir_of_gt hgt]
  · obtain rfl | ⟨-, hle, -⟩ := hz <;> omega
  · intro hne
    obtain rfl | ⟨-, -, hzero⟩ := hz
    · exact absurd rfl hne
    · exact hzero
  · intro k hlt hle heq
    exact Bool.eq_true_of_not_eq_false fun hfalse => hlast k (by omega) hlt hle ⟨heq, hfalse⟩

/-- Settles O37: the flipped bit changes one byte, and the CRC tells apart blocks that differ in one
byte. -/
theorem crcDetectsEverySingleBitError : Obligations.CrcDetectsEverySingleBitError := by
  refine ⟨addrValid_iff, fun a a' k hvalid hk hk' hflip hother => ?_⟩
  refine Bool.eq_false_of_not_eq_true fun hvalid' => ?_
  have hbyte : byteAt a' ((k - 1) / 8) = byteAt a ((k - 1) / 8) :=
    byteAt_eq_of_valid hvalid hvalid' (by omega) fun i hi hne => byteAt_eq_of_flip hother hi hne
  have hbit : addrBit a' k = addrBit a k := congrArg (BitVec.getLsbD · ((k - 1) % 8)) hbyte
  simp [hbit] at hflip

/-- Settles O25: the response leaves what `clearSearch` wrote. -/
theorem initEmptiesTheSearchState : Obligations.InitEmptiesTheSearchState := by
  refine ⟨rfl, fun s => ⟨_, exec_dsInit s, completed_respond _ _ _ rfl rfl, ?_⟩⟩
  exact ⟨respond_rom .., respond_ld .., respond_done .., respond_line .., respond_resCfg ..,
    .respond _ _ _ ⟨rfl, rfl⟩,
    .respond _ _ _ (displayKept_of_fields rfl rfl rfl rfl rfl rfl rfl rfl rfl)⟩

/-- Settles O27: the round ends at its reset pulse, and the pass that it ends leaves `DONE` = 1. -/
theorem nextWithoutPresenceEndsThePass : Obligations.NextWithoutPresenceEndsThePass := by
  refine ⟨fun pullup events => by simp [envPresence], fun s hdone hpresence => ?_⟩
  have hevents : (lineReset s.line).2.events = .reset false :: s.line.events := by
    rw [lineReset_events, hpresence]
  refine ⟨_, _, exec_dsNext_of_no_presence hdone hpresence, completed_respond _ _ _ rfl rfl,
    respond_done .., respond_ld .., respond_rom .., ?_, respond_resCfg ..,
    .respond _ _ _ ⟨rfl, rfl⟩,
    .respond _ _ _ (displayKept_of_fields rfl rfl rfl rfl rfl rfl rfl rfl rfl),
    exec_dsNext_of_done (respond_done ..), completed_respond _ _ _ rfl rfl, respond_line .., ?_⟩
  · rw [respond_line]
    exact hevents
  · rw [respond_done, respond_done]
    rfl

/-- Settles O36: the status is the outcome of `addrValid`, and nothing but the response happens. -/
theorem verifyChecksTheAddress : Obligations.VerifyChecksTheAddress := by
  refine ⟨fun _ => rfl, fun s a => ⟨_, exec_dsVerify s a, ?_,
    nonDisplayKept_respond _ _ _ (.refl s), .respond _ _ _ (.refl s)⟩⟩
  have hcode : (if crc8 [a.b0, a.b1, a.b2, a.b3, a.b4, a.b5, a.b6] = a.b7 then 0x00#8 else 0x02#8) =
      (if addrValid a then Status.ok else .errCrcMismatch).code := by
    simp only [addrValid_iff, eq_comm (a := a.b7)]
    split <;> rfl
  rw [hcode]
  exact completed_respond _ _ _ rfl rfl

end Sys2Proof.Machine
end

section
/-! SUPPORT. The temperature decoder as division toward zero of the signed register by 16 (R185), and
its parts in the 16-bit form of a response (R99). -/

namespace Sys2Proof.Machine

theorem shiftRight_four_eq_tdiv (n : Nat) : ((n >>> 4 : Nat) : Int) = (n : Int).tdiv 16 := by
  rw [Nat.shiftRight_eq_div_pow]
  rfl

theorem lowBits_mul_fracUnit_eq_tmod (n : Nat) :
    (((n &&& 0xF) * Config.fracUnit : Nat) : Int) = (n : Int).tmod 16 * 625 := by
  have hmod : n &&& 0xF = n % 16 := Nat.and_two_pow_sub_one_eq_mod n 4
  rw [hmod, Nat.cast_mul]
  rfl

/-- Both parts take their sign from the register, so negating the register negates them. -/
theorem decodeTemp_eq_tdiv_tmod (p : Params) {reg : Half} (h : reg ≠ 0x8000#16) :
    decodeTemp p reg = (reg.toInt.tdiv 16, reg.toInt.tmod 16 * 625) := by
  simp only [decodeTemp, if_neg h, shiftRight_four_eq_tdiv, lowBits_mul_fracUnit_eq_tmod]
  split <;> rename_i hsign <;> rw [← BitVec.msb_eq_getLsbD_last] at hsign
  · rw [BitVec.toInt_eq_toNat_of_msb hsign]
  · have hneg : ((0x10000 - reg.toNat : Nat) : Int) = -reg.toInt := by
      rw [BitVec.toInt_eq_msb_cond, if_pos (Bool.eq_true_of_not_eq_false hsign)]
      omega
    rw [hneg, Int.neg_tdiv, Int.neg_tmod]
    simp

/-- Both parts of a decode fit the 16 bits of a response (R99). -/
theorem decodeTemp_natAbs_le (p : Params) {reg : Half} (h : reg ≠ 0x8000#16) :
    (decodeTemp p reg).1.natAbs ≤ 2048 ∧ (decodeTemp p reg).2.natAbs ≤ 9375 := by
  have hle := reg.le_toInt
  have hlt := reg.toInt_lt
  have hint : (reg.toInt.tdiv 16).natAbs = reg.toInt.natAbs / 16 := Int.natAbs_tdiv ..
  have hfrac : (reg.toInt.tmod 16).natAbs = reg.toInt.natAbs % 16 := Int.natAbs_tmod ..
  rw [decodeTemp_eq_tdiv_tmod p h]
  omega

theorem decodeTemp_min (p : Params) : decodeTemp p 0x8000#16 = p.decodeMin := rfl

theorem Params.decodeMin_bounds_of_wf {p : Params} (h : p.wf = true) :
    (-32768 ≤ p.decodeMin.1 ∧ p.decodeMin.1 ≤ 32767) ∧
      (-32768 ≤ p.decodeMin.2 ∧ p.decodeMin.2 ≤ 32767) := by
  simp only [Params.wf, Bool.and_eq_true, decide_eq_true_eq] at h
  tauto

/-- The host reads both parts of a decode back from their two bytes (R99). -/
theorem toInt_highByte_append_lowByte {n : Int} (hle : -32768 ≤ n) (hlt : n ≤ 32767) :
    (highByte (BitVec.ofInt 16 n) ++ lowByte (BitVec.ofInt 16 n) : Half).toInt = n := by
  have hhalf := halfOf_lowByte_highByte (BitVec.ofInt 16 n)
  rw [halfOf] at hhalf
  rw [hhalf]
  exact BitVec.toInt_ofInt_eq_self (by decide) hle (by omega)

theorem decodeTemp_bounds (p : Params) {reg : Half} (h : reg ≠ 0x8000#16 ∨ p.wf = true) :
    (-32768 ≤ (decodeTemp p reg).1 ∧ (decodeTemp p reg).1 ≤ 32767) ∧
      (-32768 ≤ (decodeTemp p reg).2 ∧ (decodeTemp p reg).2 ≤ 32767) := by
  by_cases hreg : reg = 0x8000#16
  · subst hreg
    rw [decodeTemp_min]
    exact Params.decodeMin_bounds_of_wf (h.resolve_left (· rfl))
  · have hle := decodeTemp_natAbs_le p hreg
    omega

end Sys2Proof.Machine
end

section
/-! SUPPORT. A command to one device: the reset pulse, its address and the function command
(R173, R174); and the bytes read after it (R176). -/

namespace Sys2Proof.Machine

variable (p : Params)

/-- The line after a reset pulse, the match command, an address and a function command. -/
def commandSent (a : Addr) (cmd : Byte) (l : Line) : Line :=
  writeBytes p (p.cmdMatch :: a.toList ++ [cmd]) (lineReset l).2

theorem writeBytes_append (vs ws : List Byte) (l : Line) :
    writeBytes p (vs ++ ws) l = writeBytes p ws (writeBytes p vs l) := by
  induction vs generalizing l with
  | nil => rfl
  | cons v vs ih => exact ih _

theorem commandSent_eq_writeByte (a : Addr) (cmd : Byte) (l : Line) :
    commandSent p a cmd l =
      writeByte p cmd (writeBytes p (p.cmdMatch :: a.toList) (lineReset l).2) :=
  writeBytes_append ..

theorem commandSent_pull (a : Addr) (cmd : Byte) (l : Line) :
    (commandSent p a cmd l).pull = false :=
  (released_kept p).writeBytes _ _ (lineReset_pull l)

theorem commandSent_events (a : Addr) (cmd : Byte) (l : Line) :
    (commandSent p a cmd l).events =
      (((p.cmdMatch :: a.toList ++ [cmd]).flatMap bitsOf).map LineEvent.write).reverse
        ++ .reset (envPresence l.env l.events) :: l.events := by
  rw [commandSent, writeBytes_events, lineReset_events]

/-- `Select(A)` writes only where a device has answered (R174). -/
theorem select_eq (a : Addr) (l : Line) :
    select p a l = (envPresence l.env l.events,
      if envPresence l.env l.events then
        writeBytes p (p.cmdMatch :: a.toList) (lineReset l).2
      else (lineReset l).2) := by
  rw [← lineReset_fst]
  unfold select
  split <;> simp_all

/-! ## Reading bytes -/

theorem readBytes_succ (n : Nat) (l : Line) :
    readBytes p (n + 1) l =
      ((readByte p l).1 :: (readBytes p n (readByte p l).2).1,
        (readBytes p n (readByte p l).2).2) := rfl

theorem readBytes_length (n : Nat) (l : Line) : (readBytes p n l).1.length = n := by
  induction n generalizing l with
  | zero => rfl
  | succ n ih => rw [readBytes_succ, List.length_cons, ih]

theorem readBytes_events (n : Nat) (l : Line) :
    (readBytes p n l).2.events =
      (((readBytes p n l).1.flatMap bitsOf).map LineEvent.read).reverse ++ l.events := by
  induction n generalizing l with
  | zero => rfl
  | succ n ih =>
    rw [readBytes_succ, ih, readByte_events, List.flatMap_cons, bitsOf_eq_map_range]
    simp

end Sys2Proof.Machine
end

section
/-! SUPPORT. Each operation of SD as the line activity it does and the response it gives (R172 to R176,
R186). -/

namespace Sys2Proof.Machine

variable (s : State)

theorem exec_sdSetRes (res : BitVec 2) :
    exec (.sdSetRes res) s = .next (respond 1 .ok [] { s with resCfg := res }) := rfl

theorem exec_sdWait (res : BitVec 2) :
    exec (.sdWait res) s =
      .next (respond 1 .ok [] { s with line := lineWait s.params res s.line }) := rfl

theorem exec_sdDecode (reg : Half) :
    exec (.sdDecode reg) s = .next (respond 3 .ok (tempPayload (decodeTemp s.params reg)) s) := rfl

theorem exec_sdStartConv (a : Addr) :
    exec (.sdStartConv a) s = .next
      (respond 9 (if envPresence s.line.env s.line.events then .ok else .errNoDevice)
        [s.resCfg.zeroExtend 8]
        { s with line :=
            if envPresence s.line.env s.line.events then
              commandSent s.params a s.params.cmdConvert s.line
            else (lineReset s.line).2 }) := by
  simp only [exec, execSdStartConv, select_eq, commandSent_eq_writeByte]
  cases envPresence s.line.env s.line.events with
  | true => simp only [if_true]
  | false => simp only [Bool.false_eq_true, if_false]

/-- The response carries `RESCFG` under either status (R173). -/
theorem exec_sdStartConv_rsp (a : Addr) : ∃ u status, exec (.sdStartConv a) s = .next u ∧
    u.rsp = s.rsp ++ [status, s.resCfg.zeroExtend 8] :=
  ⟨_, _, exec_sdStartConv s a, respond_rsp ..⟩

/-- The scratchpad that `SD.READ_TEMP` reads where it finds presence, and the line after it (R176). -/
def scratchpadRead (a : Addr) : List Byte × Line :=
  readBytes s.params s.params.spLen (commandSent s.params a s.params.cmdReadSp s.line)

theorem scratchpadRead_length (a : Addr) : (scratchpadRead s a).1.length = s.params.spLen :=
  readBytes_length ..

theorem scratchpadRead_pull (a : Addr) : (scratchpadRead s a).2.pull = false :=
  (released_kept s.params).readBytes _ _ (commandSent_pull ..)

theorem scratchpadRead_events (a : Addr) :
    (scratchpadRead s a).2.events =
      (((s.params.cmdMatch :: a.toList ++ [s.params.cmdReadSp]).flatMap bitsOf).map LineEvent.write
        ++ ((scratchpadRead s a).1.flatMap bitsOf).map LineEvent.read).reverse
        ++ .reset (envPresence s.line.env s.line.events) :: s.line.events := by
  rw [scratchpadRead, readBytes_events, commandSent_events, List.reverse_append, List.append_assoc]

theorem scratchpadValid_iff (sp : List Byte) :
    scratchpadValid sp = true ↔ crc8 sp.dropLast = sp.getLastD 0 := by
  rw [scratchpadValid, beq_iff_eq]

variable {s}

theorem exec_sdReadTemp_of_no_presence (a : Addr)
    (h : envPresence s.line.env s.line.events = false) :
    exec (.sdReadTemp a) s = .next
      (respond 9 .errNoDevice (List.replicate 4 0x00#8)
        { s with line := (lineReset s.line).2 }) := by
  simp only [exec, execSdReadTemp, select_eq, h]
  rfl

theorem exec_sdReadTemp_of_presence (a : Addr)
    (h : envPresence s.line.env s.line.events = true) :
    exec (.sdReadTemp a) s = .next
      (respond 9 (if scratchpadValid (scratchpadRead s a).1 then .ok else .errCrcMismatch)
        (if scratchpadValid (scratchpadRead s a).1 then
          tempPayload (decodeTemp s.params (scratchpadReg (scratchpadRead s a).1))
        else List.replicate 4 0x00#8)
        { s with line := (scratchpadRead s a).2 }) := by
  simp only [exec, execSdReadTemp, select_eq, h, scratchpadRead, commandSent_eq_writeByte, if_true]
  split <;> rfl

end Sys2Proof.Machine
end

section
/-! SUPPORT. The statements of 42_sensor_driver.md about the decoder and the single operations. -/

namespace Sys2Proof.Machine

/-- Settles O44: the register of -r is the negated word, and division toward zero is odd. -/
theorem decodeIsAnInvolutionOnSign : Obligations.DecodeIsAnInvolutionOnSign := by
  intro p r hr
  have hword : BitVec.ofNat 16 (0x10000 - r.toNat) = -r := rfl
  have hneg : -r ≠ 0x8000#16 := fun h => hr (BitVec.neg_eq_iff_eq_neg.mp h)
  have hint : (-r).toInt = -r.toInt := BitVec.toInt_neg_of_ne_intMin hr
  rw [hword, decodeTemp_eq_tdiv_tmod p hneg, decodeTemp_eq_tdiv_tmod p hr, hint, Int.neg_tdiv,
    Int.neg_tmod, Int.neg_mul]

/-- Settles O39: the response of `SD.START_CONV` carries the field that `SD.SET_RES` wrote. -/
theorem setResIsSeenByTheNextStartConv : Obligations.SetResIsSeenByTheNextStartConv := by
  refine ⟨rfl, rfl, rfl, rfl, fun s res => ⟨_, exec_sdSetRes s res, completed_respond _ _ _ rfl rfl,
    respond_resCfg .., respond_line .., .respond _ _ _ ⟨rfl, rfl, rfl⟩, .respond _ _ _ ⟨rfl, rfl⟩,
    .respond _ _ _ (displayKept_of_fields rfl rfl rfl rfl rfl rfl rfl rfl rfl),
    fun a => ?_⟩⟩
  obtain ⟨u, status, hexec, hrsp⟩ := exec_sdStartConv_rsp _ a
  exact ⟨u, status, hexec, by rw [hrsp, respond_resCfg]⟩

/-- Settles O40: presence selects the status and whether the 80 write slots follow the reset pulse. -/
theorem startConvAddressesTheDevice : Obligations.StartConvAddressesTheDevice := by
  refine ⟨fun _ => rfl, fun s a => ⟨_, _, exec_sdStartConv s a, rfl, ?_⟩⟩
  have hcode : (if envPresence s.line.env s.line.events then 0x00#8 else 0x01#8) =
      (if envPresence s.line.env s.line.events then Status.ok else .errNoDevice).code :=
    by split <;> rfl
  rw [hcode, respond_line]
  refine ⟨completed_respond_line .., ?_, ?_, respond_resCfg .., searchKept_respond_line ..,
    portsKept_respond_line .., displayKept_respond_line ..⟩
  · split
    · rw [commandSent_events, ‹envPresence _ _ = true›]
    · rw [lineReset_events, List.nil_append]
  · split
    · exact commandSent_pull ..
    · exact lineReset_pull ..

/-- Settles O41: without presence the line saw one reset pulse; with it, the checksum of the bytes
read selects the response. -/
theorem readTempReadsChecksAndDecodes : Obligations.ReadTempReadsChecksAndDecodes := by
  refine ⟨fun _ => rfl, fun s a => ?_⟩
  cases hpresence : envPresence s.line.env s.line.events with
  | false =>
    refine ⟨_, exec_sdReadTemp_of_no_presence a hpresence, ?_, respond_resCfg ..,
      searchKept_respond_line .., portsKept_respond_line .., displayKept_respond_line ..,
      fun _ => ⟨completed_respond_line .., ?_⟩, nofun⟩ <;> rw [respond_line]
    · exact lineReset_pull ..
    · rw [lineReset_events, hpresence]
  | true =>
    refine ⟨_, exec_sdReadTemp_of_presence a hpresence, ?_, respond_resCfg ..,
      searchKept_respond_line .., portsKept_respond_line .., displayKept_respond_line ..,
      nofun, fun _ => ⟨(scratchpadRead s a).1, scratchpadRead_length .., ?_, fun hcrc => ?_,
        fun hcrc => ?_⟩⟩
    · rw [respond_line, scratchpadRead_pull]
    · rw [respond_line, scratchpadRead_events, hpresence]
    · rw [if_neg (mt (scratchpadValid_iff _).mp hcrc), if_neg (mt (scratchpadValid_iff _).mp hcrc)]
      exact completed_respond_line ..
    · rw [if_pos ((scratchpadValid_iff _).mpr hcrc), if_pos ((scratchpadValid_iff _).mpr hcrc)]
      exact completed_respond_line ..

/-- Settles O45: each part fits 16 bits, so its two bytes joined again are the part. -/
theorem decodeRespondsWithBothParts : Obligations.DecodeRespondsWithBothParts := by
  refine ⟨fun _ => rfl, fun s reg => ⟨_, _, _, _, _, exec_sdDecode s reg,
    completed_respond _ _ _ rfl rfl, fun hreg => ?_,
    nonDisplayKept_respond _ _ _ (.refl s), .respond _ _ _ (.refl s)⟩⟩
  obtain ⟨⟨hint, hint'⟩, hfrac, hfrac'⟩ := decodeTemp_bounds s.params hreg
  rw [toInt_highByte_append_lowByte hint hint', toInt_highByte_append_lowByte hfrac hfrac']

/-- Settles O46: the line after the operation is the one `lineWait`. -/
theorem waitIsOneEventAndNoSlot : Obligations.WaitIsOneEventAndNoSlot := by
  refine ⟨rfl, rfl, rfl, rfl, fun s res => ⟨_, exec_sdWait s res, completed_respond_line .., ?_⟩⟩
  rw [respond_line]
  exact ⟨lineWait_events .., lineWait_pull .., searchKept_respond_line .., respond_resCfg ..,
    portsKept_respond_line .., displayKept_respond_line ..⟩

end Sys2Proof.Machine
end

section
/-! SUPPORT. An operation of LCD is updates of the display and one response: what the response leaves
of them (R97). -/

namespace Sys2Proof.Machine

variable {s t : State} (len : Nat) (status : Status) (payload : List Byte)

theorem DisplayFlagsKept.respond (h : DisplayFlagsKept s t) :
    DisplayFlagsKept s (respond len status payload t) := by
  obtain ⟨hon, hvis⟩ := h
  exact ⟨by simp [hon], by simp [hvis]⟩

theorem cursorKept_respond (h : t.undef = false) : CursorKept t (respond len status payload t) :=
  ⟨respond_curCol _ _ _ _ h, respond_curRow _ _ _ _ h, respond_curValid _ _ _ _ h⟩

/-- An error stops the operation before any update (R14). -/
theorem completed_kept_raise (error : Status) (pay : Nat) (s : State) :
    Completed len error.code (List.replicate pay 0) s (raise len error pay s) ∧
      NonDisplayKept s (raise len error pay s) ∧ DisplayKept s (raise len error pay s) :=
  ⟨completed_respond _ _ _ rfl rfl, nonDisplayKept_respond _ _ _ (.refl s), .respond _ _ _ (.refl s)⟩

end Sys2Proof.Machine
end

section
/-! SUPPORT. The cells and glyph rows that the updates of LCD write, and those they leave (R203 to
R208). -/

namespace Sys2Proof.Machine

variable (s : State)

/-! ## Windows of addresses -/

theorem ddAddr_add (p : Params) (row col i : Nat) :
    ddAddr p row (col + i) = ddAddr p row col + i := (Nat.add_assoc ..).symm

theorem cgAddr_eq_add (slot y : Nat) : cgAddr slot y = cgAddr slot 0 + y := rfl

theorem not_mem_window_of_forall_ne {a b n : Nat} (h : ∀ i, i < n → a ≠ b + i) :
    ¬(b ≤ a ∧ a < b + n) := fun ⟨hb, hn⟩ => h (a - b) (by omega) (by omega)

/-! ## The cursor alone -/

@[simp] theorem ddCell_invalidateCursor (a : Nat) : ddCell (invalidateCursor s) a = ddCell s a := rfl
@[simp] theorem cgRow_invalidateCursor (a : Nat) : cgRow (invalidateCursor s) a = cgRow s a := rfl

@[simp] theorem ddCell_setCursor (col row : Byte) (a : Nat) :
    ddCell (setCursor col row s) a = ddCell s a := rfl
@[simp] theorem cgRow_setCursor (col row : Byte) (a : Nat) :
    cgRow (setCursor col row s) a = cgRow s a := rfl

/-! ## Blanked cells -/

theorem ddCell_blankCells_inside {row len col i : Nat} (hi : i < len) :
    ddCell (blankCells row len col s) (ddAddr s.params row (col + i)) = Config.blank := by
  rw [ddCell_blankCells, ddAddr_add, if_pos (by omega)]

theorem ddCell_blankCells_outside {row len col a : Nat}
    (h : ∀ i, i < len → a ≠ ddAddr s.params row (col + i)) :
    ddCell (blankCells row len col s) a = ddCell s a := by
  simp only [ddAddr_add] at h
  rw [ddCell_blankCells, if_neg (not_mem_window_of_forall_ne h)]

theorem cgRow_blankCells (row len col a : Nat) :
    cgRow (blankCells row len col s) a = cgRow s a := by simp [cgRow]

theorem nonDisplayKept_blankCells (row len col : Nat) :
    NonDisplayKept s (blankCells row len col s) := by
  simp [NonDisplayKept, SearchKept, PortsKept]

/-! ## Loaded glyph rows -/

theorem cgRow_loadRows_inside {slot y : Nat} (glyph : Bytes8) (hy : y < 8) :
    cgRow (loadRows slot glyph.toList 0 s) (cgAddr slot y) =
      (glyph.toList.getD y 0).extractLsb' 0 5 := by
  have hlen : glyph.toList.length = 8 := rfl
  rw [cgRow_loadRows, cgAddr_eq_add slot y, if_pos (by omega), Nat.add_sub_cancel_left]

theorem cgRow_loadRows_outside {slot a : Nat} (glyph : Bytes8)
    (h : ∀ y, y < 8 → a ≠ cgAddr slot y) :
    cgRow (loadRows slot glyph.toList 0 s) a = cgRow s a := by
  have hlen : glyph.toList.length = 8 := rfl
  rw [cgRow_loadRows, hlen, if_neg (not_mem_window_of_forall_ne (b := cgAddr slot 0) (n := 8) h)]

theorem ddCell_loadRows (slot : Nat) (rs : List Byte) (y a : Nat) :
    ddCell (loadRows slot rs y s) a = ddCell s a := by simp [ddCell]

theorem nonDisplayKept_loadRows (slot : Nat) (rs : List Byte) (y : Nat) :
    NonDisplayKept s (loadRows slot rs y s) := by
  simp [NonDisplayKept, SearchKept, PortsKept]

end Sys2Proof.Machine
end

section
/-! SUPPORT. Each operation of LCD that addresses a slot, a cell or a region, as the update it does
inside its domain and the error it raises outside (R204, R205, R208, R211). -/

namespace Sys2Proof.Machine

variable (s : State)

theorem exec_lcdLoadGlyph {slot : Byte} (glyph : Bytes8) (h : slot.toNat < Config.nslots) :
    exec (.lcdLoadGlyph slot glyph) s = .next
      (respond 10 .ok [] (invalidateCursor (loadRows slot.toNat glyph.toList 0 s))) := by
  simp only [exec, execLcdLoadGlyph, if_neg (Nat.not_le.mpr h)]

theorem exec_lcdLoadGlyph_of_no_slot {slot : Byte} (glyph : Bytes8)
    (h : slot.toNat ≥ Config.nslots) :
    exec (.lcdLoadGlyph slot glyph) s = .next (raise 10 .errIllegal 0 s) := by
  simp only [exec, execLcdLoadGlyph, if_pos h]

theorem exec_lcdSetCursor {col row : Byte} (hcol : col.toNat < s.params.cols)
    (hrow : row.toNat < s.params.rows) :
    exec (.lcdSetCursor col row) s = .next (respond 3 .ok [] (setCursor col row s)) := by
  have hin : ¬(col.toNat ≥ s.params.cols ∨ row.toNat ≥ s.params.rows) := by omega
  simp only [exec, execLcdSetCursor, if_neg hin]

theorem exec_lcdSetCursor_of_outside {col row : Byte}
    (h : col.toNat ≥ s.params.cols ∨ row.toNat ≥ s.params.rows) :
    exec (.lcdSetCursor col row) s = .next (raise 3 .errIllegal 0 s) := by
  simp only [exec, execLcdSetCursor, if_pos h]

theorem exec_lcdClearRegion {col row len : Byte} (hcol : col.toNat < s.params.cols)
    (hrow : row.toNat < s.params.rows) (hlen : col.toNat + len.toNat ≤ s.params.cols) :
    exec (.lcdClearRegion col row len) s = .next
      (respond 4 .ok [] (setCursor col row (blankCells row.toNat len.toNat col.toNat s))) := by
  have hin : ¬(col.toNat ≥ s.params.cols ∨ row.toNat ≥ s.params.rows ∨
      col.toNat + len.toNat > s.params.cols) := by omega
  simp only [exec, execLcdClearRegion, if_neg hin]

theorem exec_lcdClearRegion_of_outside {col row len : Byte}
    (h : col.toNat ≥ s.params.cols ∨ row.toNat ≥ s.params.rows ∨
      col.toNat + len.toNat > s.params.cols) :
    exec (.lcdClearRegion col row len) s = .next (raise 4 .errIllegal 0 s) := by
  simp only [exec, execLcdClearRegion, if_pos h]

theorem exec_lcdCtrl (d c : Bool) :
    exec (.lcdCtrl d c) s = .next (respond 1 .ok [] (setDisplayFlags d c s)) := rfl

end Sys2Proof.Machine
end

section
/-! SUPPORT. The statements of 43_display.md about glyphs, the cursor, regions and the flags. -/

namespace Sys2Proof.Machine

/-- Settles O53: the blanked cells are a window of the row, and the response after them changes no
cell while the display is defined. -/
theorem clearRegionBlanksItsCells : Obligations.ClearRegionBlanksItsCells := by
  refine ⟨fun _ _ _ => rfl, fun s col row len hcol hrow hlen => ?_,
    fun s col row len hout => ⟨_, exec_lcdClearRegion_of_outside s hout, completed_kept_raise ..⟩⟩
  refine ⟨_, exec_lcdClearRegion s hcol hrow hlen, completed_respond _ _ _ (by simp) (by simp),
    nonDisplayKept_respond _ _ _ (nonDisplayKept_blankCells ..),
    .respond _ _ _ (by simp [DisplayFlagsKept]), by simp, fun hdef => ?_⟩
  have hdef' : (setCursor col row (blankCells row.toNat len.toNat col.toNat s)).undef = false := by
    simpa using hdef
  obtain ⟨hcurCol, hcurRow, hcurValid⟩ := cursorKept_respond 4 .ok [] hdef'
  refine ⟨hcurCol, hcurRow, hcurValid, fun a => ?_, fun i hi => ?_, fun a ha => ?_⟩
  · rw [cgRow_respond _ _ _ _ hdef', cgRow_setCursor, cgRow_blankCells]
  · rw [ddCell_respond _ _ _ _ hdef', ddCell_setCursor, ddCell_blankCells_inside s hi]
    rfl
  · rw [ddCell_respond _ _ _ _ hdef', ddCell_setCursor, ddCell_blankCells_outside s ha]

/-- Settles O48: the loaded rows are the window of the slot, and no cell of `DD` is written. -/
theorem loadGlyphWritesItsSlot : Obligations.LoadGlyphWritesItsSlot := by
  refine ⟨fun _ _ => rfl, fun s slot g hslot => ?_,
    fun s slot g hslot => ⟨_, exec_lcdLoadGlyph_of_no_slot s g hslot, completed_kept_raise ..⟩⟩
  refine ⟨_, exec_lcdLoadGlyph s g hslot, completed_respond _ _ _ (by simp) (by simp),
    nonDisplayKept_respond _ _ _ (nonDisplayKept_loadRows ..),
    .respond _ _ _ (by simp [DisplayFlagsKept]), by simp, fun hdef => ?_⟩
  have hdef' : (invalidateCursor (loadRows slot.toNat g.toList 0 s)).undef = false := by
    simpa using hdef
  refine ⟨(respond_curValid _ _ _ _ hdef').trans (invalidateCursor_curValid _), fun a => ?_,
    fun y hy => ?_, fun a ha => ?_⟩
  · rw [ddCell_respond _ _ _ _ hdef', ddCell_invalidateCursor, ddCell_loadRows]
  · rw [cgRow_respond _ _ _ _ hdef', cgRow_invalidateCursor, cgRow_loadRows_inside s g hy]
  · rw [cgRow_respond _ _ _ _ hdef', cgRow_invalidateCursor, cgRow_loadRows_outside s g ha]

/-- Settles O49: inside the grid only the three cursor fields are written, outside nothing is. -/
theorem setCursorMovesTheWriteHead : Obligations.SetCursorMovesTheWriteHead := by
  refine ⟨fun _ _ => rfl, fun s col row hcol hrow => ?_,
    fun s col row hout => ⟨_, exec_lcdSetCursor_of_outside s hout, completed_kept_raise ..⟩⟩
  refine ⟨_, exec_lcdSetCursor s hcol hrow, completed_respond _ _ _ rfl rfl,
    nonDisplayKept_respond _ _ _ (.refl s), .respond _ _ _ ⟨rfl, rfl⟩, by simp, fun hdef => ?_⟩
  obtain ⟨hcurCol, hcurRow, hcurValid⟩ :=
    cursorKept_respond (t := setCursor col row s) 3 .ok [] hdef
  exact ⟨hcurCol, hcurRow, hcurValid, ddCell_respond _ _ _ (setCursor col row s) hdef,
    cgRow_respond _ _ _ (setCursor col row s) hdef⟩

/-- Settles O58: only the two flags are written, and the response keeps them. -/
theorem ctrlSetsTheDisplayFlags : Obligations.CtrlSetsTheDisplayFlags := by
  refine ⟨rfl, rfl, rfl, rfl, fun s d c => ?_⟩
  exact ⟨_, exec_lcdCtrl s d c, completed_respond _ _ _ rfl rfl, respond_dispOn ..,
    respond_curVis .., nonDisplayKept_respond _ _ _ (.refl s), respond_undef ..,
    fun hdef => ⟨cursorKept_respond (t := setDisplayFlags d c s) _ _ _ hdef,
      ddCell_respond _ _ _ (setDisplayFlags d c s) hdef,
      cgRow_respond _ _ _ (setDisplayFlags d c s) hdef⟩⟩

end Sys2Proof.Machine
end

section
/-! SUPPORT. What the registers of R33 read as: the value of each, and which numbers have one. -/

namespace Sys2Proof.Machine

variable (s : State)

@[simp] theorem flagByte_toNat (b : Bool) : (flagByte b).toNat = b.toNat := by cases b <;> rfl

/-- R26: `DISP_ON` is bit 1 and `CUR_VIS` bit 0. -/
theorem dctl_toNat : (dctl s).toNat = 2 * s.dispOn.toNat + s.curVis.toNat := by
  unfold dctl
  cases s.dispOn <;> cases s.curVis <;> rfl

theorem curst_toNat : (curst s).toNat = s.curValid.toNat := flagByte_toNat _

theorem sflags_toNat : (sflags s).toNat = s.done.toNat := flagByte_toNat _

theorem Params.cols_rows_le_of_wf {p : Params} (h : p.wf = true) : p.cols ≤ 255 ∧ p.rows ≤ 255 := by
  simp only [Params.wf, Bool.and_eq_true, decide_eq_true_eq] at h
  omega

/-- R27: a valid cursor reads as it stands. -/
theorem readReg_cursor (h : s.curValid = true) :
    readReg s 3 = some s.curCol ∧ readReg s 4 = some s.curRow := by
  simp [readReg, h]

theorem readReg_rom {j : Nat} (hj : j < 8) : readReg s (8 + j) = some (s.rom.toList.getD j 0) := by
  interval_cases j <;> rfl

theorem readReg_exists {n : Nat} (hn : n ≤ 18) : ∃ v, readReg s n = some v := by
  interval_cases n <;> exact ⟨_, rfl⟩

theorem readReg_eq_none {n : Nat} (hn : 19 ≤ n) : readReg s n = none := by
  unfold readReg
  split
  case h_20 => rfl
  all_goals omega

end Sys2Proof.Machine
end

section
/-! SUPPORT. Each operation of SYS as the response it gives (R240 to R242). -/

namespace Sys2Proof.Machine

variable (s : State)

theorem exec_sysNop : exec .sysNop s = .next (emit 1 .ok [] s) := rfl

theorem exec_sysRdreg {n v : Byte} (h : readReg s n.toNat = some v) :
    exec (.sysRdreg n) s = .next (emit 2 .ok [v] s) := by
  simp [exec, execSysRdreg, h]

theorem exec_sysRdreg_of_no_register {n : Byte} (h : readReg s n.toNat = none) :
    exec (.sysRdreg n) s = .next (emit 2 .errIllegal [0] s) := by
  simp [exec, execSysRdreg, h]

/-- R240: a response without `ST` writes nothing but `CP` and the response stream. -/
theorem emit_writes_only_cp (len : Nat) (status : Status) (payload : List Byte) :
    Responded len status.code payload s (emit len status payload s) ∧
      (emit len status payload s).st = s.st ∧ NonDisplayKept s (emit len status payload s) ∧
      DisplayKept s (emit len status payload s) :=
  ⟨responded_emit _ _ _ rfl rfl, emit_st .., nonDisplayKept_emit _ _ _ (.refl s),
    .emit _ _ _ (.refl s)⟩

end Sys2Proof.Machine
end

section
/-! SUPPORT. The statements of 44_system.md. -/

namespace Sys2Proof.Machine

/-- Settles O18: the operation is one response that does not write `ST`. -/
theorem nopWritesOnlyTheCommandPointer : Obligations.NopWritesOnlyTheCommandPointer :=
  ⟨rfl, fun s => ⟨_, exec_sysNop s, emit_writes_only_cp s 1 .ok []⟩⟩

/-- Settles O19: the operation is one response that does not write `ST`; it carries the value of the
register where there is one. -/
theorem rdregRespondsWithTheRegister : Obligations.RdregRespondsWithTheRegister := by
  refine ⟨fun _ => rfl, fun s n hn => ?_, fun s n hn =>
    ⟨_, exec_sysRdreg_of_no_register s (readReg_eq_none s hn),
      emit_writes_only_cp s 2 .errIllegal [0]⟩⟩
  obtain ⟨v, hv⟩ := readReg_exists s hn
  obtain ⟨hresp, hst, hother, hdisplay⟩ := emit_writes_only_cp s 2 .ok [v]
  have hvalue {k w : Byte} (hk : n = k) (hw : readReg s k.toNat = some w) : v = w := by
    subst hk
    exact Option.some.inj (hv.symm.trans hw)
  refine ⟨_, v, exec_sysRdreg s hv, hresp, hst, hother, hdisplay, fun h => ?st, fun h => ?resCfg,
    fun h => ?dctl, fun h hcur => ?curCol, fun h hcur => ?curRow, fun h => ?curst, fun h => ?ld,
    fun h => ?sflags, fun j hj h => ?rom, fun hwf => ?size, fun h => ?nslots⟩
  case st => rw [hvalue h rfl, BitVec.toNat_setWidth_of_le (by decide)]
  case resCfg => rw [hvalue h rfl, BitVec.toNat_setWidth_of_le (by decide)]
  case dctl => rw [hvalue h rfl, dctl_toNat]
  case curCol => exact hvalue h (readReg_cursor s hcur).1
  case curRow => exact hvalue h (readReg_cursor s hcur).2
  case curst => rw [hvalue h rfl, curst_toNat]
  case ld => rw [hvalue h rfl, BitVec.toNat_setWidth_of_le (by decide)]
  case sflags => rw [hvalue h rfl, sflags_toNat]
  case rom => exact hvalue rfl (h ▸ readReg_rom s hj)
  case size =>
    obtain ⟨hcols, hrows⟩ := Params.cols_rows_le_of_wf hwf
    refine ⟨fun h => ?_, fun h => ?_⟩
    · rw [hvalue h rfl, BitVec.toNat_ofNat, Nat.mod_eq_of_lt (by omega)]
    · rw [hvalue h rfl, BitVec.toNat_ofNat, Nat.mod_eq_of_lt (by omega)]
  case nslots => rw [hvalue h rfl]; rfl

end Sys2Proof.Machine
end

section
/-! SUPPORT. The decoder read backwards: what the operand readers have consumed when they answer a
command (R91 to R96). -/

namespace Sys2Proof

variable {bytes rest : List Byte} {i : Instr}

theorem operand1_eq_command {f : Byte → Instr} (h : operand1 f bytes = .command i rest) :
    ∃ x, bytes = x :: rest ∧ i = f x := by
  unfold operand1 at h
  split at h
  · cases h
    exact ⟨_, rfl, rfl⟩
  · cases h

theorem operand2_eq_command {f : Byte → Byte → Instr} (h : operand2 f bytes = .command i rest) :
    ∃ x y, bytes = x :: y :: rest ∧ i = f x y := by
  unfold operand2 at h
  split at h
  · cases h
    exact ⟨_, _, rfl, rfl⟩
  · cases h

theorem operand3_eq_command {f : Byte → Byte → Byte → Instr}
    (h : operand3 f bytes = .command i rest) :
    ∃ x y z, bytes = x :: y :: z :: rest ∧ i = f x y z := by
  unfold operand3 at h
  split at h
  · cases h
    exact ⟨_, _, _, rfl, rfl⟩
  · cases h

theorem operand4_eq_command {f : Byte → Byte → Byte → Byte → Instr}
    (h : operand4 f bytes = .command i rest) :
    ∃ w x y z, bytes = w :: x :: y :: z :: rest ∧ i = f w x y z := by
  unfold operand4 at h
  split at h
  · cases h
    exact ⟨_, _, _, _, rfl, rfl⟩
  · cases h

theorem operand8_eq_command {f : Bytes8 → Instr} (h : operand8 f bytes = .command i rest) :
    ∃ x : Bytes8, bytes = x.toList ++ rest ∧ i = f x := by
  unfold operand8 at h
  split at h
  · cases h
    exact ⟨_, rfl, rfl⟩
  · cases h

theorem operandGlyph_eq_command (h : operandGlyph bytes = .command i rest) :
    ∃ (slot : Byte) (glyph : Bytes8), bytes = slot :: glyph.toList ++ rest ∧
      i = .lcdLoadGlyph slot glyph := by
  unfold operandGlyph at h
  split at h
  · obtain ⟨glyph, rfl, rfl⟩ := operand8_eq_command h
    exact ⟨_, glyph, rfl, rfl⟩
  · cases h

theorem splitText_eq_some {n : Nat} {text : List Byte} (h : splitText n bytes = some (text, rest)) :
    text.length = n ∧ bytes = text ++ rest := by
  induction n, bytes using splitText.induct generalizing text rest with
  | case1 bytes => simp_all [splitText]
  | case2 n => simp [splitText] at h
  | case3 n c bytes text' rest' hsplit ih =>
    obtain ⟨hlen, hbytes⟩ := ih hsplit
    simp only [splitText, hsplit, Option.some.injEq, Prod.mk.injEq] at h
    obtain ⟨rfl, rfl⟩ := h
    exact ⟨congrArg (· + 1) hlen, congrArg (c :: ·) hbytes⟩
  | case4 n c bytes hsplit ih => simp [splitText, hsplit] at h

theorem operandText_eq_command (h : operandText bytes = .command i rest) :
    ∃ text : List Byte, text.length ≤ 255 ∧
      bytes = BitVec.ofNat 8 text.length :: text ++ rest ∧ i = .lcdPrint text := by
  unfold operandText at h
  split at h
  · next n tail =>
    split at h
    · next text _ hsplit =>
      cases h
      obtain ⟨hlen, rfl⟩ := splitText_eq_some hsplit
      refine ⟨text, by omega, ?_, rfl⟩
      rw [hlen, BitVec.ofNat_toNat, BitVec.setWidth_eq]
      rfl
    · cases h
  · cases h

theorem lowByte_halfOf (lo hi : Byte) : lowByte (halfOf lo hi) = lo :=
  BitVec.extractLsb'_append_eq_right

theorem highByte_halfOf (lo hi : Byte) : highByte (halfOf lo hi) = hi :=
  BitVec.extractLsb'_append_eq_left

theorem eq_ofNat_of_toNat_eq {op : Byte} {n : Nat} (h : op.toNat = n) : op = BitVec.ofNat 8 n := by
  rw [← h, BitVec.ofNat_toNat, BitVec.setWidth_eq]

/-- Each line of the opcode map answers the command whose encoding it has read (R94). -/
theorem decodeOperands_eq_command {op : Byte} (h : decodeOperands op bytes = .command i rest) :
    i.wellFormed = true ∧ op :: bytes = encode i ++ rest := by
  unfold decodeOperands at h
  split at h <;> rename_i hop
  case h_34 => cases h
  all_goals obtain rfl := eq_ofNat_of_toNat_eq hop
  case h_2 | h_7 | h_25 =>
    obtain ⟨x, rfl, rfl⟩ := operand1_eq_command h
    exact ⟨rfl, rfl⟩
  case h_24 =>
    obtain ⟨x, y, rfl, rfl⟩ := operand2_eq_command h
    exact ⟨rfl, rfl⟩
  case h_14 | h_28 =>
    obtain ⟨x, y, rfl, rfl⟩ := operand2_eq_command h
    simp [Instr.wellFormed, encode, lowByte_halfOf, highByte_halfOf]
  case h_27 =>
    obtain ⟨x, y, z, rfl, rfl⟩ := operand3_eq_command h
    exact ⟨rfl, rfl⟩
  case h_29 =>
    obtain ⟨w, x, y, z, rfl, rfl⟩ := operand4_eq_command h
    simp [Instr.wellFormed, encode, lowByte_halfOf, highByte_halfOf]
  case h_11 | h_12 | h_13 =>
    obtain ⟨a, rfl, rfl⟩ := operand8_eq_command h
    exact ⟨rfl, rfl⟩
  case h_23 =>
    obtain ⟨slot, glyph, rfl, rfl⟩ := operandGlyph_eq_command h
    exact ⟨rfl, rfl⟩
  case h_26 =>
    obtain ⟨text, hlen, rfl, rfl⟩ := operandText_eq_command h
    exact ⟨decide_eq_true hlen, rfl⟩
  all_goals
    cases h
    exact ⟨rfl, rfl⟩

theorem decode_eq_command (h : decode bytes = .command i rest) :
    i.wellFormed = true ∧ bytes = encode i ++ rest := by
  cases bytes with
  | nil => cases h
  | cons op bytes => exact decodeOperands_eq_command h

theorem decode_encode_append (hwf : i.wellFormed = true) (rest : List Byte) :
    decode (encode i ++ rest) = .command i rest := by
  have hdec := decode_encode hwf
  rw [streaming_decode _ rest (by simp [hdec]), hdec]
  rfl

theorem encode_length (i : Instr) : (encode i).length = i.length := by
  cases i with
  | lcdPrint text => exact (Laws.Length.lcdPrint text).1
  | _ => rfl

theorem Instr.length_pos (i : Instr) : 1 ≤ i.length := by
  cases i with
  | lcdPrint text => exact Nat.le_add_right_of_le (by decide)
  | _ => exact Nat.le_of_ble_eq_true rfl

end Sys2Proof
end

section
/-! SUPPORT. The decoder and the rows of the opcode table (R94, R100). -/

namespace Sys2Proof.Machine

variable {op : Byte} {bytes rest : List Byte} {i : Instr}

/-- The opcode byte of an encoding lies in its row. -/
theorem encode_matches_row (i : Instr) :
    ∃ op operands, encode i = op :: operands ∧ op &&& (opcodeRow i).1 = (opcodeRow i).2 := by
  cases i with
  | btWriteBit b => exact ⟨_, _, rfl, by cases b <;> decide⟩
  | sdWait res => exact ⟨_, _, rfl, by revert res; decide⟩
  | sdSetRes res => exact ⟨_, _, rfl, by revert res; decide⟩
  | lcdCtrl d c => exact ⟨_, _, rfl, by cases d <;> cases c <;> decide⟩
  | _ => exact ⟨_, _, rfl, by simp only [opcodeRow]; decide⟩

theorem row_of_decode_eq_command (h : decode (op :: bytes) = .command i rest) :
    op &&& (opcodeRow i).1 = (opcodeRow i).2 := by
  obtain ⟨op', operands, henc, hrow⟩ := encode_matches_row i
  obtain ⟨-, hbytes⟩ := decode_eq_command h
  rw [henc, List.cons_append, List.cons.injEq] at hbytes
  obtain ⟨rfl, -⟩ := hbytes
  exact hrow

/-- The opcode byte values of the lines of R94. -/
def opcodeValues : List Nat :=
  [0x00, 0x01, 0x10, 0x12, 0x13, 0x14, 0x15, 0x16, 0x20, 0x21, 0x22, 0x30, 0x32, 0x33, 0x34, 0x35,
    0x36, 0x37, 0x38, 0x39, 0x3A, 0x3B, 0x40, 0x41, 0x42, 0x43, 0x44, 0x45, 0x46, 0x48, 0x49, 0x4A,
    0x4B]

/-- Checked nibble by nibble. -/
theorem nibbles_match_row_eq : ∀ hi lo : BitVec 4,
    opcodeRows.any (fun r => (hi ++ lo) &&& r.1 == r.2) = opcodeValues.contains (hi ++ lo).toNat := by
  decide

theorem no_row_of_not_mem_opcodeValues (h : op.toNat ∉ opcodeValues) :
    ∀ r ∈ opcodeRows, op &&& r.1 ≠ r.2 := by
  have hsplit : (op.extractLsb' 4 4 ++ op.extractLsb' 0 4) = op :=
    BitVec.extractLsb'_append_extractLsb'
  have hany := nibbles_match_row_eq (op.extractLsb' 4 4) (op.extractLsb' 0 4)
  rw [hsplit, List.contains_eq_mem, decide_eq_false h] at hany
  simpa using hany

theorem operand8_ne_illegalOpcode (f : Bytes8 → Instr) (bytes : List Byte) (op : Byte) :
    operand8 f bytes ≠ .illegalOpcode op := by
  unfold operand8
  split <;> nofun

/-- Only the last line of the opcode map answers an illegal byte (R100). -/
theorem not_mem_opcodeValues_of_illegalOpcode (h : decodeOperands op bytes = .illegalOpcode op) :
    op.toNat ∉ opcodeValues := by
  unfold decodeOperands at h
  split at h
  case h_34 =>
    simp only [imp_false] at *
    simp only [opcodeValues, List.mem_cons, List.not_mem_nil, *, or_false, not_false_eq_true]
  case h_2 | h_7 | h_25 =>
    unfold operand1 at h
    split at h <;> cases h
  case h_14 | h_24 | h_28 =>
    unfold operand2 at h
    split at h <;> cases h
  case h_27 =>
    unfold operand3 at h
    split at h <;> cases h
  case h_29 =>
    unfold operand4 at h
    split at h <;> cases h
  case h_11 | h_12 | h_13 => exact absurd h (operand8_ne_illegalOpcode _ _ _)
  case h_23 =>
    unfold operandGlyph at h
    split at h
    · exact absurd h (operand8_ne_illegalOpcode _ _ _)
    · cases h
  case h_26 =>
    unfold operandText at h
    split at h
    · split at h <;> cases h
    · cases h
  all_goals cases h

/-- Two rows demand different values of the bits that both look at. -/
theorem opcodeRows_disagree :
    opcodeRows.Pairwise (fun r q => r.2 &&& q.1 ≠ q.2 &&& r.1) := by
  decide

end Sys2Proof.Machine
end

section
/-! SUPPORT. What a step does with a command at `CP` (R106). -/

namespace Sys2Proof.Machine

theorem step_of_command {s : State} {i : Instr} {rest : List Byte}
    (h : decode (s.cmd.drop s.cp) = .command i rest) : step s = exec i s := by
  simp only [step, fetchBytes, h]

/-- Everything a step that has a next state can be (R106). -/
theorem step_cases {s t : State} (h : step s = .next t) :
    (∃ i rest, s.cmd.drop s.cp = encode i ++ rest ∧ exec i s = .next t) ∨
      (∃ op rest, s.cmd.drop s.cp = op :: rest ∧ t = illegalOpcode s) := by
  cases hdec : decode (s.cmd.drop s.cp) with
  | command i rest =>
    rw [step_of_command hdec] at h
    exact .inl ⟨i, rest, (decode_eq_command hdec).2, h⟩
  | illegalOpcode op =>
    rw [step_of_illegalOpcode hdec] at h
    cases h
    cases hcmd : s.cmd.drop s.cp with
    | nil => simp [hcmd, decode] at hdec
    | cons op' rest => exact .inr ⟨op', rest, rfl, rfl⟩
  | incomplete => simp [step_of_incomplete hdec] at h

end Sys2Proof.Machine
end

section
/-! SUPPORT. The statements of 30_encoding.md about the two directions of the encoding, the opcode table
and a step. -/

namespace Sys2Proof.Machine

/-- Settles O11: the decoder reads a stream, so the bytes behind the encoding stay unread. -/
theorem decodeOfEncodeIsTheCommand : Obligations.DecodeOfEncodeIsTheCommand :=
  fun _ rest hwf => decode_encode_append hwf rest

/-- Settles O12, by the lines of the opcode map. -/
theorem decodedBytesAreTheEncoding : Obligations.DecodedBytesAreTheEncoding :=
  fun _ _ _ => decode_eq_command

/-- Settles O13: the bytes of the map's lines are those that match a row, and two rows disagree on a
bit that both look at. -/
theorem decoderFollowsTheOpcodeTable : Obligations.DecoderFollowsTheOpcodeTable := by
  refine ⟨fun op rest => ⟨fun h => ?_, fun h => decodeOperands_of_no_row h rest⟩,
    fun op rest rest' i => row_of_decode_eq_command, opcodeRows_disagree.imp fun hne op => ?_⟩
  · exact no_row_of_not_mem_opcodeValues (not_mem_opcodeValues_of_illegalOpcode h)
  · rintro ⟨hr, hq⟩
    rw [← hr, ← hq, BitVec.and_assoc, BitVec.and_assoc, BitVec.and_comm _ (Prod.fst _)] at hne
    exact hne rfl

/-- Settles O14, by evaluating the decoder. -/
theorem sampleWordsDecode : Obligations.SampleWordsDecode := by
  unfold Obligations.SampleWordsDecode
  decide

/-- Settles O15: `step` is the decoder's answer, one case per outcome. -/
theorem stepRunsTheDecodedCommand : Obligations.StepRunsTheDecodedCommand :=
  ⟨fun _ _ rest hwf hcmd => step_of_command (hcmd ▸ decode_encode_append hwf rest),
    fun _ _ _ => step_of_command, fun _ _ => step_of_illegalOpcode, fun _ => step_of_incomplete⟩

end Sys2Proof.Machine
end

section
/-! SUPPORT. The loop of `DS.NEXT` (R143): the rounds whose address was dropped, then one of the three
ways to respond. -/

namespace Sys2Proof.Machine

/-- Dropped rounds lead from the state s of the loop to the state u. -/
inductive Searched (s : State) : State → Prop
  | start : Searched s s
  | drop {u : State} {a : Addr} {lastZero : Nat} {l : Line} (h : Searched s u)
      (hdone : u.done = false)
      (hround : round u.params u.rom u.ld.toNat u.line = (.completed a lastZero, l))
      (hinvalid : addrValid a = false) :
      Searched s (commitRound a lastZero { u with line := l, diag := u.diag ++ [a] })

/-- From the state u of the loop `DS.NEXT` responds with a status and a payload, after it has brought
the state to the last argument. -/
inductive SearchEnds (u : State) : Status → List Byte → State → Prop
  | passDone (hdone : u.done = true) : SearchEnds u .ok (List.replicate 9 0x00#8) u
  | noDevice {e : RoundEnd} {l : Line} (hdone : u.done = false)
      (hround : round u.params u.rom u.ld.toNat u.line = (e, l))
      (he : e = .noPresence ∨ e = .noAnswer) :
      SearchEnds u .errNoDevice (List.replicate 9 0x00#8) (endPass { u with line := l })
  | yield {a : Addr} {lastZero : Nat} {l : Line} (hdone : u.done = false)
      (hround : round u.params u.rom u.ld.toNat u.line = (.completed a lastZero, l))
      (hvalid : addrValid a = true) :
      SearchEnds u .ok (0x01#8 :: a.toList) (commitRound a lastZero { u with line := l })

variable {s u w : State} {status : Status} {payload : List Byte}

theorem searchLoop_of_searchEnds (h : SearchEnds u status payload w) (rounds : Nat) :
    searchLoop (rounds + 1) u = respond 1 status payload w := by
  cases h with
  | passDone hdone => rw [searchLoop, if_pos hdone]; rfl
  | noDevice hdone hround he =>
    rw [searchLoop, if_neg (by simp [hdone]), hround]
    obtain rfl | rfl := he <;> rfl
  | yield hdone hround hvalid =>
    simp only [searchLoop, if_neg (Bool.eq_false_iff.mp hdone), hround, if_pos hvalid]
    rfl

theorem searchLoop_of_dropped {a : Addr} {lastZero : Nat} {l : Line} (hdone : u.done = false)
    (hround : round u.params u.rom u.ld.toNat u.line = (.completed a lastZero, l))
    (hinvalid : addrValid a = false) (rounds : Nat) :
    searchLoop (rounds + 1) u =
      searchLoop rounds (commitRound a lastZero { u with line := l, diag := u.diag ++ [a] }) := by
  simp only [searchLoop, if_neg (Bool.eq_false_iff.mp hdone), hround,
    if_neg (Bool.eq_false_iff.mp hinvalid)]

/-- A turn of the loop responds or drops an address. -/
theorem searchTurn (u : State) :
    (∃ status payload w, SearchEnds u status payload w) ∨
      ∃ a lastZero l, u.done = false ∧
        round u.params u.rom u.ld.toNat u.line = (.completed a lastZero, l) ∧
        addrValid a = false := by
  cases hdone : u.done with
  | true => exact .inl ⟨_, _, _, .passDone hdone⟩
  | false =>
    obtain ⟨e, l, hround⟩ : ∃ e l, round u.params u.rom u.ld.toNat u.line = (e, l) := ⟨_, _, rfl⟩
    cases e with
    | noPresence => exact .inl ⟨_, _, _, .noDevice hdone hround (.inl rfl)⟩
    | noAnswer => exact .inl ⟨_, _, _, .noDevice hdone hround (.inr rfl)⟩
    | completed a lastZero =>
      cases hvalid : addrValid a with
      | true => exact .inl ⟨_, _, _, .yield hdone hround hvalid⟩
      | false => exact .inr ⟨a, lastZero, l, rfl, hround, hvalid⟩

/-- Everything the loop can do: it runs out of rounds, or it responds (R143; log 6). -/
theorem searchLoop_cases (h : Searched s u) (rounds : Nat) :
    Searched s (searchLoop rounds u) ∨
      ∃ v status payload w, Searched s v ∧ SearchEnds v status payload w ∧
        searchLoop rounds u = respond 1 status payload w := by
  induction rounds generalizing u with
  | zero => exact .inl h
  | succ rounds ih =>
    obtain ⟨status, payload, w, hends⟩ | ⟨a, lastZero, l, hdone, hround, hinvalid⟩ := searchTurn u
    · exact .inr ⟨u, status, payload, w, h, hends, searchLoop_of_searchEnds hends rounds⟩
    · rw [searchLoop_of_dropped hdone hround hinvalid]
      exact ih (h.drop hdone hround hinvalid)

/-! ## What the loop writes -/

/-- The state with other values in the fields that the search writes. -/
def withSearch (s : State) (rom : Addr) (ld : BitVec 7) (done : Bool) (line : Line)
    (diag : List Addr) : State :=
  { s with rom := rom, ld := ld, done := done, line := line, diag := diag }

theorem Searched.eq_withSearch (h : Searched s u) :
    ∃ rom ld done line diag, u = withSearch s rom ld done line diag := by
  induction h with
  | start => exact ⟨_, _, _, _, _, rfl⟩
  | drop _ _ _ _ ih =>
    obtain ⟨_, _, _, _, _, rfl⟩ := ih
    exact ⟨_, _, _, _, _, rfl⟩

theorem SearchEnds.eq_withSearch (h : SearchEnds u status payload w) (hu : Searched s u) :
    ∃ rom ld done line diag, w = withSearch s rom ld done line diag := by
  obtain ⟨_, _, _, _, _, rfl⟩ := hu.eq_withSearch
  cases h <;> exact ⟨_, _, _, _, _, rfl⟩

theorem SearchEnds.payload_length (h : SearchEnds u status payload w) : payload.length = 9 := by
  cases h <;> rfl

theorem Searched.dropped (h : Searched s u) :
    ∃ dropped : List Addr, u.diag = s.diag ++ dropped ∧ ∀ a ∈ dropped, addrValid a = false := by
  induction h with
  | start => exact ⟨[], by simp, by simp⟩
  | @drop u a _ _ _ _ _ hinvalid ih =>
    obtain ⟨dropped, hdiag, hall⟩ := ih
    refine ⟨dropped ++ [a], ?_, ?_⟩
    · rw [commitRound_diag, hdiag, List.append_assoc]
    · simpa [or_imp, forall_and, hinvalid] using hall

theorem SearchEnds.diag (h : SearchEnds u status payload w) : w.diag = u.diag := by
  cases h <;> rfl

theorem round_lastZero_le {p : Params} {rom a : Addr} {ld z : Nat} {l l' : Line}
    (h : round p rom ld l = (.completed a z, l')) : z ≤ 64 := by
  obtain ⟨-, -, -, -, hz, -⟩ := roundFollowsTheSearchRules p rom ld z l l' a h
  exact hz

/-- A loop that has responded does the same with one more round to run. -/
theorem searchLoop_succ_of_responded {rounds : Nat} (h : (searchLoop rounds u).cp ≠ u.cp) :
    searchLoop (rounds + 1) u = searchLoop rounds u := by
  induction rounds generalizing u with
  | zero => exact absurd rfl h
  | succ rounds ih =>
    obtain ⟨status, payload, w, hends⟩ | ⟨a, lastZero, l, hdone, hround, hinvalid⟩ := searchTurn u
    · rw [searchLoop_of_searchEnds hends, searchLoop_of_searchEnds hends]
    · rw [searchLoop_of_dropped hdone hround hinvalid] at h
      rw [searchLoop_of_dropped hdone hround hinvalid, searchLoop_of_dropped hdone hround hinvalid]
      exact ih h

end Sys2Proof.Machine
end

section
/-! SUPPORT. `DS.NEXT` by the way its first round ends. -/

namespace Sys2Proof.Machine

variable {s : State} {status : Status} {payload : List Byte} {w : State}

theorem exec_dsNext_of_searchEnds (h : SearchEnds s status payload w) :
    exec .dsNext s = .next (respond 1 status payload w) := by
  obtain ⟨rounds, hexec⟩ := exec_dsNext s
  rw [hexec, searchLoop_of_searchEnds h]

/-- A `DS.NEXT` that has responded: the rounds dropped before, and how it ended (R143). -/
theorem exec_dsNext_responded {t : State} (h : exec .dsNext s = .next t) (hcp : t.cp ≠ s.cp) :
    ∃ v status payload w, Searched s v ∧ SearchEnds v status payload w ∧
      t = respond 1 status payload w := by
  obtain ⟨rounds, hexec⟩ := exec_dsNext s
  rw [hexec] at h
  cases h
  refine (searchLoop_cases .start _).resolve_left fun hsearched => hcp ?_
  obtain ⟨rom, ld, done, line, diag, heq⟩ := hsearched.eq_withSearch
  rw [heq]
  rfl

end Sys2Proof.Machine
end

section
/-! SUPPORT. The statements of 41_device_search.md about how `DS.NEXT` ends. -/

namespace Sys2Proof.Machine

/-- Settles O26: the loop responds before any round. -/
theorem nextAfterThePassIsIdle : Obligations.NextAfterThePassIsIdle :=
  ⟨rfl, fun s hdone => ⟨_, exec_dsNext_of_done hdone, completed_respond _ _ _ rfl rfl,
    nonDisplayKept_respond _ _ _ (.refl s), .respond _ _ _ (.refl s)⟩⟩

/-- Settles O28: the first round ends the loop, and `endPass` keeps `ROM`. -/
theorem nextWithoutAnswerEndsThePass : Obligations.NextWithoutAnswerEndsThePass := by
  intro s l hdone hround
  exact ⟨_, exec_dsNext_of_searchEnds (.noDevice hdone hround (.inr rfl)),
    completed_respond _ _ _ rfl rfl, respond_done .., respond_ld .., respond_rom ..,
    respond_line .., respond_resCfg .., .respond _ _ _ ⟨rfl, rfl⟩,
    .respond _ _ _ (displayKept_of_fields rfl rfl rfl rfl rfl rfl rfl rfl rfl)⟩

/-- Settles O29: the first round ends the loop with a commit; `last_zero` is at most 64, so `LD` holds
it. -/
theorem nextYieldsAValidAddress : Obligations.NextYieldsAValidAddress := by
  intro s l a lastZero hdone hround hvalid
  have hle := round_lastZero_le hround
  refine ⟨_, exec_dsNext_of_searchEnds (.yield hdone hround hvalid),
    completed_respond _ _ _ rfl rfl, respond_rom .., ?_, ?_, respond_line .., respond_resCfg ..,
    .respond _ _ _ ⟨rfl, rfl⟩,
    .respond _ _ _ (displayKept_of_fields rfl rfl rfl rfl rfl rfl rfl rfl rfl)⟩
  · rw [respond_ld, commitRound_ld, BitVec.toNat_ofNat, Nat.mod_eq_of_lt (by omega)]
  · rw [respond_done, commitRound_done]
    simp [hdone]

/-- Settles O30: the loop goes on from the committed state, and a loop that has responded does the same
with one more round to run. -/
theorem droppedAddressAdvancesTheSearch : Obligations.DroppedAddressAdvancesTheSearch := by
  intro s t l a lastZero hdone hround hinvalid hexec hcp
  have hcommit : commitRound a lastZero { s with line := l, diag := s.diag ++ [a] } =
      { s with
        rom := a
        ld := BitVec.ofNat 7 lastZero
        done := decide (lastZero = 0)
        line := l
        diag := s.diag ++ [a] } := by
    by_cases hz : lastZero = 0 <;> simp [commitRound, hz, hdone]
  rw [← hcommit]
  obtain ⟨rounds, hrounds⟩ : ∃ rounds, Config.roundsPerStep = rounds + 1 :=
    Nat.exists_eq_succ_of_ne_zero (by decide)
  simp only [exec, execDsNext, hrounds, Host.Outcome.next.injEq] at hexec ⊢
  rw [searchLoop_of_dropped hdone hround hinvalid] at hexec
  rw [searchLoop_succ_of_responded (by rw [hexec]; exact hcp), hexec]

/-- Settles O31, by the three ways to respond. -/
theorem nextYieldsOrEndsThePass : Obligations.NextYieldsOrEndsThePass := by
  intro s t hexec hcp
  obtain ⟨v, status, payload, w, hv, hends, rfl⟩ := exec_dsNext_responded hexec hcp
  have hdropped := hv.dropped
  obtain ⟨rom, ld, done, line, diag, rfl⟩ := hv.eq_withSearch
  rw [respond_diag, hends.diag]
  refine ⟨hdropped, ?_⟩
  cases hends with
  | passDone hdone => exact .inr (.inl ⟨respond_rsp .., (respond_done ..).trans hdone⟩)
  | noDevice => exact .inr (.inr ⟨respond_rsp .., respond_done .., respond_ld ..⟩)
  | yield _ _ hvalid =>
    rw [respond_rom]
    exact .inl ⟨respond_rsp .., hvalid⟩

end Sys2Proof.Machine
end

section
/-! SUPPORT. The line as an operation leaves it: reached by primitives and waits (R55, R175). -/

namespace Sys2Proof.Machine

/-- The line l' is reached from l: it has every property of l that the primitives and the wait keep. -/
def LineReached (p : Params) (l l' : Line) : Prop :=
  ∀ P : Line → Prop, LineKept p P → (∀ res l, P l → P (lineWait p res l)) → P l → P l'

variable {p : Params} {l : Line}

theorem lineReached_reset : LineReached p l (lineReset l).2 := fun _ h _ => h.reset _

theorem lineReached_wait (res : BitVec 2) : LineReached p l (lineWait p res l) :=
  fun _ _ hwait => hwait _ _

theorem lineReached_commandSent (a : Addr) (cmd : Byte) : LineReached p l (commandSent p a cmd l) :=
  fun _ h _ hl => h.writeBytes _ _ (h.reset _ hl)

theorem lineReached_scratchpadRead (s : State) (a : Addr) :
    LineReached s.params s.line (scratchpadRead s a).2 :=
  fun _ h hwait hl => h.readBytes _ _ (lineReached_commandSent a _ _ h hwait hl)

theorem lineReached_round (rom : Addr) (ld : Nat) : LineReached p l (round p rom ld l).2 :=
  fun _ h _ => h.round rom ld _

end Sys2Proof.Machine
end

section
/-! SUPPORT. Each operation of LCD that writes characters, as the text it writes (R206, R207, R209,
R210). -/

namespace Sys2Proof.Machine

variable (s : State)

theorem exec_lcdWriteChar (c : Byte) :
    exec (.lcdWriteChar c) s = .next (respond 2 .ok [] (putText [c] s)) := rfl

theorem exec_lcdPrint (text : List Byte) :
    exec (.lcdPrint text) s = .next (respond (2 + text.length) .ok [] (putText text s)) := rfl

theorem exec_lcdPrintNum (v : Half) :
    exec (.lcdPrintNum v) s = .next (respond 3 .ok [] (putText (numText (sext16 v)) s)) := rfl

theorem exec_lcdPrintTemp {ti tf : Half} (h : tempPairIllegal (sext16 ti) (sext16 tf) = false) :
    exec (.lcdPrintTemp ti tf) s =
      .next (respond 5 .ok [] (putText (tempText (sext16 ti) (sext16 tf)) s)) := by
  simp [exec, execLcdPrintTemp, h]

theorem exec_lcdPrintTemp_of_illegal {ti tf : Half}
    (h : tempPairIllegal (sext16 ti) (sext16 tf) = true) :
    exec (.lcdPrintTemp ti tf) s = .next (raise 5 .errIllegal 0 s) := by
  simp [exec, execLcdPrintTemp, h]

end Sys2Proof.Machine
end

section
/-! SUPPORT. What any operation can do, said once: it brings the state to an update of one of a few
kinds, and then it responds. -/

namespace Sys2Proof.Machine

/-- What an operation can have written before its response. -/
inductive Update (s : State) : Instr → State → Prop
  | none (i : Instr) : Update s i s
  | line {i : Instr} {l : Line} (hi : usesLine i = true) (hl : LineReached s.params s.line l) :
      Update s i { s with line := l }
  | clearSearch : Update s .dsInit (clearSearch s)
  | search {u : State} (h : Searched s u) : Update s .dsNext u
  | searchEnd {u w : State} {status : Status} {payload : List Byte} (h : Searched s u)
      (hends : SearchEnds u status payload w) : Update s .dsNext w
  | resCfg (res : BitVec 2) : Update s (.sdSetRes res) { s with resCfg := res }
  | loadGlyph {slot : Byte} (glyph : Bytes8) (hslot : slot.toNat < Config.nslots) :
      Update s (.lcdLoadGlyph slot glyph)
        (invalidateCursor (loadRows slot.toNat glyph.toList 0 s))
  | setCursor {col row : Byte} (hcol : col.toNat < s.params.cols)
      (hrow : row.toNat < s.params.rows) : Update s (.lcdSetCursor col row) (setCursor col row s)
  | text {i : Instr} (hi : isLcd i = true) (text : List Byte) : Update s i (putText text s)
  | clearRegion {col row len : Byte} (hcol : col.toNat < s.params.cols)
      (hrow : row.toNat < s.params.rows) (hlen : col.toNat + len.toNat ≤ s.params.cols) :
      Update s (.lcdClearRegion col row len)
        (Machine.setCursor col row (blankCells row.toNat len.toNat col.toNat s))
  | displayFlags (d c : Bool) : Update s (.lcdCtrl d c) (setDisplayFlags d c s)

/-- The response of an operation; those of SYS do not write `ST` (R240). -/
def answer (i : Instr) (status : Status) (payload : List Byte) (u : State) : State :=
  if isSys i then emit i.length status payload u else respond i.length status payload u

/-- The step of an operation: an update and a response of the length its opcode fixes (R97, R99), or an
update alone where `DS.NEXT` has run out of rounds (log 6). -/
theorem exec_cases (i : Instr) (s : State) :
    ∃ u, Update s i u ∧
      ((i = .dsNext ∧ exec i s = .next u) ∨
        ∃ status payload, payload.length + 1 = responseLength i ∧
          exec i s = .next (answer i status payload u)) := by
  cases i with
  | sysNop => exact ⟨s, .none _, .inr ⟨_, _, rfl, exec_sysNop s⟩⟩
  | sysRdreg n =>
    cases hreg : readReg s n.toNat with
    | none => exact ⟨s, .none _, .inr ⟨_, _, rfl, exec_sysRdreg_of_no_register s hreg⟩⟩
    | some v => exact ⟨s, .none _, .inr ⟨_, _, rfl, exec_sysRdreg s hreg⟩⟩
  | btReset => exact ⟨_, .line rfl lineReached_reset, .inr ⟨_, _, rfl, exec_btReset s⟩⟩
  | btWriteBit b =>
    exact ⟨_, .line rfl fun _ h _ => h.write b _, .inr ⟨_, _, rfl, exec_btWriteBit s b⟩⟩
  | btReadBit => exact ⟨_, .line rfl fun _ h _ => h.read _, .inr ⟨_, _, rfl, exec_btReadBit s⟩⟩
  | btWriteByte v =>
    exact ⟨_, .line rfl fun _ h _ => h.writeByte v _, .inr ⟨_, _, rfl, exec_btWriteByte s v⟩⟩
  | btReadByte =>
    exact ⟨_, .line rfl fun _ h _ => h.readByte _, .inr ⟨_, _, rfl, exec_btReadByte s⟩⟩
  | dsInit => exact ⟨_, .clearSearch, .inr ⟨_, _, rfl, exec_dsInit s⟩⟩
  | dsNext =>
    obtain ⟨rounds, hexec⟩ := exec_dsNext s
    obtain hu | ⟨v, status, payload, w, hv, hends, hloop⟩ := searchLoop_cases .start (rounds + 1)
    · exact ⟨_, .search hu, .inl ⟨rfl, hexec⟩⟩
    · exact ⟨w, .searchEnd hv hends, .inr ⟨status, payload, congrArg (· + 1) hends.payload_length,
        hexec.trans (congrArg _ hloop)⟩⟩
  | dsVerify a => exact ⟨s, .none _, .inr ⟨_, _, rfl, exec_dsVerify s a⟩⟩
  | sdStartConv a =>
    refine ⟨_, .line rfl ?_, .inr ⟨_, _, rfl, exec_sdStartConv s a⟩⟩
    split
    · exact lineReached_commandSent a _
    · exact lineReached_reset
  | sdReadTemp a =>
    cases hpresence : envPresence s.line.env s.line.events with
    | true =>
      refine ⟨_, .line rfl (lineReached_scratchpadRead s a),
        .inr ⟨_, _, ?_, exec_sdReadTemp_of_presence a hpresence⟩⟩
      split <;> rfl
    | false =>
      exact ⟨_, .line rfl lineReached_reset,
        .inr ⟨_, _, rfl, exec_sdReadTemp_of_no_presence a hpresence⟩⟩
  | sdDecode reg => exact ⟨s, .none _, .inr ⟨_, _, rfl, exec_sdDecode s reg⟩⟩
  | sdWait res => exact ⟨_, .line rfl (lineReached_wait res), .inr ⟨_, _, rfl, exec_sdWait s res⟩⟩
  | sdSetRes res => exact ⟨_, .resCfg res, .inr ⟨_, _, rfl, exec_sdSetRes s res⟩⟩
  | lcdLoadGlyph slot glyph =>
    by_cases h : slot.toNat < Config.nslots
    · exact ⟨_, .loadGlyph glyph h, .inr ⟨_, _, rfl, exec_lcdLoadGlyph s glyph h⟩⟩
    · exact ⟨s, .none _, .inr ⟨_, _, rfl, exec_lcdLoadGlyph_of_no_slot s glyph (Nat.not_lt.mp h)⟩⟩
  | lcdSetCursor col row =>
    by_cases h : col.toNat < s.params.cols ∧ row.toNat < s.params.rows
    · obtain ⟨hcol, hrow⟩ := h
      exact ⟨_, .setCursor hcol hrow, .inr ⟨_, _, rfl, exec_lcdSetCursor s hcol hrow⟩⟩
    · exact ⟨s, .none _, .inr ⟨_, _, rfl, exec_lcdSetCursor_of_outside s (by omega)⟩⟩
  | lcdWriteChar c => exact ⟨_, .text rfl [c], .inr ⟨_, _, rfl, exec_lcdWriteChar s c⟩⟩
  | lcdPrint text => exact ⟨_, .text rfl text, .inr ⟨_, _, rfl, exec_lcdPrint s text⟩⟩
  | lcdClearRegion col row len =>
    by_cases h : col.toNat < s.params.cols ∧ row.toNat < s.params.rows ∧
        col.toNat + len.toNat ≤ s.params.cols
    · obtain ⟨hcol, hrow, hlen⟩ := h
      exact ⟨_, .clearRegion hcol hrow hlen,
        .inr ⟨_, _, rfl, exec_lcdClearRegion s hcol hrow hlen⟩⟩
    · exact ⟨s, .none _, .inr ⟨_, _, rfl, exec_lcdClearRegion_of_outside s (by omega)⟩⟩
  | lcdPrintNum v => exact ⟨_, .text rfl _, .inr ⟨_, _, rfl, exec_lcdPrintNum s v⟩⟩
  | lcdPrintTemp ti tf =>
    cases h : tempPairIllegal (sext16 ti) (sext16 tf) with
    | true => exact ⟨s, .none _, .inr ⟨_, _, rfl, exec_lcdPrintTemp_of_illegal s h⟩⟩
    | false => exact ⟨_, .text rfl _, .inr ⟨_, _, rfl, exec_lcdPrintTemp s h⟩⟩
  | lcdCtrl d c => exact ⟨_, .displayFlags d c, .inr ⟨_, _, rfl, exec_lcdCtrl s d c⟩⟩

theorem exec_eq_next {i : Instr} {s t : State} (h : exec i s = .next t) :
    ∃ u, Update s i u ∧ ((i = .dsNext ∧ t = u) ∨
      ∃ status payload, payload.length + 1 = responseLength i ∧ t = answer i status payload u) := by
  obtain ⟨u, hu, ⟨rfl, hexec⟩ | ⟨status, payload, hlen, hexec⟩⟩ := exec_cases i s
  · exact ⟨u, hu, .inl ⟨rfl, by simpa [h] using hexec⟩⟩
  · exact ⟨u, hu, .inr ⟨status, payload, hlen, by simpa [h] using hexec⟩⟩

end Sys2Proof.Machine
end

section
/-! SUPPORT. What an update writes and what it leaves. -/

namespace Sys2Proof.Machine

/-! ## The response -/

variable (i : Instr) (status : Status) (payload : List Byte) (u : State)

@[simp] theorem answer_params : (answer i status payload u).params = u.params := by
  unfold answer; split <;> simp
@[simp] theorem answer_cp : (answer i status payload u).cp = u.cp + i.length := by
  unfold answer; split <;> simp
@[simp] theorem answer_cmd : (answer i status payload u).cmd = u.cmd := by
  unfold answer; split <;> simp
@[simp] theorem answer_rsp :
    (answer i status payload u).rsp = u.rsp ++ status.code :: payload := by
  unfold answer; split <;> simp
@[simp] theorem answer_undef : (answer i status payload u).undef = u.undef := by
  unfold answer; split <;> simp

theorem answer_st :
    (answer i status payload u).st = if isSys i then u.st else status.code.extractLsb' 0 3 := by
  unfold answer; split <;> simp

variable {i u} {s : State}

theorem SearchKept.emit {t : State} {len : Nat} (h : SearchKept s t) :
    SearchKept s (emit len status payload t) := by
  obtain ⟨hrom, hld, hdone⟩ := h
  exact ⟨by simp [hrom], by simp [hld], by simp [hdone]⟩

theorem SearchKept.answer (h : SearchKept s u) : SearchKept s (answer i status payload u) := by
  unfold Machine.answer
  split
  · exact .emit _ _ h
  · exact .respond _ _ _ h

theorem DisplayKept.answer (h : DisplayKept s u) : DisplayKept s (answer i status payload u) := by
  unfold Machine.answer
  split
  · exact .emit _ _ _ h
  · exact .respond _ _ _ h

theorem nonDisplayKept_answer (h : NonDisplayKept s u) :
    NonDisplayKept s (answer i status payload u) := by
  unfold answer
  split
  · exact nonDisplayKept_emit _ _ _ h
  · exact nonDisplayKept_respond _ _ _ h

/-! ## The update -/

/-- Only a response moves `CP` and writes the response stream and `ST`; nothing writes the command
stream and the parameters. -/
theorem Update.streams_kept (h : Update s i u) :
    u.params = s.params ∧ u.st = s.st ∧ u.cp = s.cp ∧ u.cmd = s.cmd ∧ u.rsp = s.rsp := by
  cases h with
  | search h =>
    obtain ⟨_, _, _, _, _, rfl⟩ := h.eq_withSearch
    simp [withSearch]
  | searchEnd h hends =>
    obtain ⟨_, _, _, _, _, rfl⟩ := hends.eq_withSearch h
    simp [withSearch]
  | _ => simp

theorem Update.searchKept (h : Update s i u) (hinit : i ≠ .dsInit) (hnext : i ≠ .dsNext) :
    SearchKept s u := by
  cases h with
  | clearSearch => exact absurd rfl hinit
  | search | searchEnd => exact absurd rfl hnext
  | _ => simp [SearchKept]

theorem Update.displayKept (h : Update s i u) (hi : isLcd i = false) : DisplayKept s u := by
  cases h with
  | none => exact .refl _
  | search h =>
    obtain ⟨_, _, _, _, _, rfl⟩ := h.eq_withSearch
    exact displayKept_of_fields rfl rfl rfl rfl rfl rfl rfl rfl rfl
  | searchEnd h hends =>
    obtain ⟨_, _, _, _, _, rfl⟩ := hends.eq_withSearch h
    exact displayKept_of_fields rfl rfl rfl rfl rfl rfl rfl rfl rfl
  | line | clearSearch | resCfg => exact displayKept_of_fields rfl rfl rfl rfl rfl rfl rfl rfl rfl
  | text hi' => simp [hi] at hi'
  | loadGlyph | setCursor | clearRegion | displayFlags => cases hi

theorem usesLine_of_isLcd (hi : isLcd i = true) : usesLine i = false := by
  cases i <;> simp_all [isLcd, usesLine]

theorem Update.nonDisplayKept (h : Update s i u) (hi : isLcd i = true) : NonDisplayKept s u := by
  cases h with
  | none => exact .refl _
  | line hi' => simp [usesLine_of_isLcd hi] at hi'
  | clearSearch | search | searchEnd | resCfg => cases hi
  | text _ text => exact nonDisplayKept_putText text s
  | loadGlyph | setCursor | clearRegion | displayFlags =>
    simp [NonDisplayKept, SearchKept, PortsKept]

theorem putChar_undef_of_undef (c : Byte) (h : s.undef = true) : (putChar c s).undef = true := by
  obtain ⟨hdef, -⟩ | ⟨hdef, -⟩ | ⟨-, heq⟩ := putChar_cases c s
  · simp [cursorDefined_iff, h] at hdef
  · simp [cursorDefined_iff, h] at hdef
  · rw [heq]

theorem putText_undef_of_undef (text : List Byte) (h : s.undef = true) :
    (putText text s).undef = true := by
  induction text generalizing s with
  | nil => exact h
  | cons c text ih => exact ih (putChar_undef_of_undef c h)

theorem Update.undef (h : Update s i u) (hu : s.undef = true) : u.undef = true := by
  cases h with
  | search h =>
    obtain ⟨_, _, _, _, _, rfl⟩ := h.eq_withSearch
    exact hu
  | searchEnd h hends =>
    obtain ⟨_, _, _, _, _, rfl⟩ := hends.eq_withSearch h
    exact hu
  | text _ text => exact putText_undef_of_undef text hu
  | _ => simpa using hu

end Sys2Proof.Machine
end

section
/-! SUPPORT. The invariant, kept by every update and by every response (R24 to R70). -/

namespace Sys2Proof.Machine

variable {s u : State} {i : Instr}

theorem Params.three_le_spLen_of_wf {p : Params} (h : p.wf = true) : 3 ≤ p.spLen := by
  simp only [Params.wf, Bool.and_eq_true, decide_eq_true_eq] at h
  omega

/-! ## The response -/

theorem Inv.redraw (h : Inv s) (hundef : s.undef = true) : Inv (redraw s) :=
  { h with
    dd := Memory.wf_nil _
    cg := Memory.wf_nil _
    cursor := fun hdef => absurd (hundef.symm.trans hdef) (by decide) }

theorem Inv.settle (h : Inv s) : Inv (settle s) := by
  cases hundef : s.undef with
  | false => rwa [settle_of_defined s hundef]
  | true =>
    rw [settle_of_undef s hundef]
    exact h.redraw hundef

theorem Inv.emit (h : Inv s) (len : Nat) (status : Status) (payload : List Byte) :
    Inv (emit len status payload s) := Inv.settle { h with }

theorem Inv.respond (h : Inv s) (len : Nat) (status : Status) (payload : List Byte) :
    Inv (respond len status payload s) := by
  have hst : Inv { s with st := status.code.extractLsb' 0 3 } :=
    { h with status := Status.st_le status }
  exact hst.emit len status payload

theorem Inv.answer (h : Inv u) (status : Status) (payload : List Byte) :
    Inv (answer i status payload u) := by
  unfold Machine.answer
  split
  · exact h.emit ..
  · exact h.respond ..

/-! ## The line and the search -/

/-- The line stays released and its reference devices sane (R38, R70). -/
theorem Inv.line (h : Inv s) {l : Line} (hl : LineReached s.params s.line l) :
    Inv { s with line := l } :=
  { h with
    released := hl _ (released_kept _) (fun _ _ hl => hl) h.released
    devices := hl _ (sane_kept _) (lineWait_sane _ (Params.three_le_spLen_of_wf h.params)) h.devices }

theorem Inv.diag (h : Inv s) (diag : List Addr) : Inv { s with diag := diag } := { h with }

/-- The commit of a round sets `DONE` exactly where `LD` becomes 0 (R148). -/
theorem Inv.commitRound (h : Inv s) (hdone : s.done = false) (a : Addr) {lastZero : Nat}
    (hle : lastZero ≤ 64) : Inv (commitRound a lastZero s) :=
  { h with
    ld := by rw [commitRound_ld, BitVec.toNat_ofNat]; omega
    done_ld := fun hd => by
      rw [commitRound_done, hdone, ite_eq_left_iff] at hd
      rw [commitRound_ld, not_imp_comm.mp hd (by decide)]
      rfl }

theorem Inv.endPass (h : Inv s) : Inv (endPass s) :=
  { h with ld := Nat.zero_le 64, done_ld := fun _ => rfl }

theorem Inv.afterRound (h : Inv s) {e : RoundEnd} {l : Line}
    (hround : round s.params s.rom s.ld.toNat s.line = (e, l)) : Inv { s with line := l } :=
  h.line (by simpa [hround] using lineReached_round (p := s.params) (l := s.line) s.rom s.ld.toNat)

theorem Inv.searched (h : Inv s) (hu : Searched s u) : Inv u := by
  induction hu with
  | start => exact h
  | drop _ hdone hround _ ih =>
    exact ((ih.afterRound hround).diag _).commitRound hdone _ (round_lastZero_le hround)

theorem Inv.searchEnds (h : Inv s) {status : Status} {payload : List Byte}
    (hu : SearchEnds s status payload u) : Inv u := by
  cases hu with
  | passDone => exact h
  | noDevice _ hround _ => exact (h.afterRound hround).endPass
  | yield hdone hround _ =>
    exact (h.afterRound hround).commitRound hdone _ (round_lastZero_le hround)

/-! ## The display -/

theorem Inv.writeDd (h : Inv s) {a : Nat} (ha : a < ddSize s.params) (v : Byte) :
    Inv (writeDd a v s) := { h with dd := Memory.wf_write _ _ _ _ ha h.dd }

theorem Inv.writeCg (h : Inv s) {a : Nat} (ha : a < cgSize) (v : BitVec 5) : Inv (writeCg a v s) :=
  { h with cg := Memory.wf_write _ _ _ _ ha h.cg }

theorem Inv.invalidateCursor (h : Inv s) : Inv (invalidateCursor s) :=
  { h with cursor := fun _ hv => absurd hv (by simp) }

theorem Inv.setCursor (h : Inv s) {col row : Byte} (hcol : col.toNat < s.params.cols)
    (hrow : row.toNat < s.params.rows) : Inv (setCursor col row s) :=
  { h with cursor := fun _ _ => ⟨hcol, hrow⟩ }

/-- A defined character write stays inside the grid, since `COLS` is at most 255 (R32, R203). -/
theorem Inv.putChar (h : Inv s) (c : Byte) : Inv (putChar c s) := by
  obtain ⟨hdef, -, heq⟩ | ⟨hdef, hcol, heq⟩ | ⟨-, heq⟩ := putChar_cases c s <;> rw [heq]
  · obtain ⟨-, -, hc, hr⟩ := (cursorDefined_iff s).mp hdef
    exact (h.writeDd (ddAddr_lt _ _ _ hr hc) c).invalidateCursor
  · obtain ⟨hcols, -⟩ := Params.cols_rows_le_of_wf h.params
    obtain ⟨hundef, hvalid, hc, hr⟩ := (cursorDefined_iff s).mp hdef
    obtain ⟨hnext, -⟩ := putChar_goesOn c s hcols hdef (by omega)
    rw [heq] at hnext
    obtain ⟨-, -, hc', hr'⟩ := (cursorDefined_iff _).mp hnext
    exact { h.writeDd (ddAddr_lt _ _ _ hr hc) c with cursor := fun _ _ => ⟨hc', hr'⟩ }
  · exact { h with cursor := fun hdef => absurd hdef (by simp) }

theorem Inv.putText (h : Inv s) (text : List Byte) : Inv (putText text s) := by
  induction text generalizing s with
  | nil => exact h
  | cons c text ih => exact ih (h.putChar c)

theorem Inv.blankCells (h : Inv s) {row len col : Nat} (hrow : row < s.params.rows)
    (hlen : col + len ≤ s.params.cols) : Inv (blankCells row len col s) := by
  induction len generalizing col s with
  | zero => exact h
  | succ len ih =>
    exact ih (h.writeDd (ddAddr_lt _ _ _ hrow (by omega)) _) hrow
      (by rw [writeDd_params]; omega)

theorem Inv.loadRows (h : Inv s) {slot : Nat} (hslot : slot < Config.nslots) {rows : List Byte}
    {y : Nat} (hy : y + rows.length ≤ 8) : Inv (loadRows slot rows y s) := by
  induction rows generalizing y s with
  | nil => exact h
  | cons r rows ih =>
    rw [List.length_cons] at hy
    exact ih (h.writeCg (cgAddr_lt _ _ hslot (by omega)) _) (by omega)

/-! ## Every operation -/

theorem Inv.update (h : Inv s) (hu : Update s i u) : Inv u := by
  cases hu with
  | none => exact h
  | line _ hl => exact h.line hl
  | clearSearch => exact { h with ld := Nat.zero_le 64, done_ld := fun _ => rfl }
  | search hu => exact h.searched hu
  | searchEnd hu hends => exact (h.searched hu).searchEnds hends
  | resCfg => exact { h with }
  | loadGlyph glyph hslot => exact (h.loadRows hslot (le_refl 8)).invalidateCursor
  | setCursor hcol hrow => exact h.setCursor hcol hrow
  | text _ text => exact h.putText text
  | clearRegion hcol hrow hlen =>
    exact (h.blankCells hrow hlen).setCursor (by simpa using hcol) (by simpa using hrow)
  | displayFlags => exact { h with }

theorem Inv.exec {t : State} (h : Inv s) (hexec : exec i s = .next t) : Inv t := by
  obtain ⟨u, hu, ⟨-, rfl⟩ | ⟨status, payload, -, rfl⟩⟩ := exec_eq_next hexec
  · exact h.update hu
  · exact (h.update hu).answer status payload

end Sys2Proof.Machine
end

section
/-! SUPPORT. The statements of 10_state.md, 20_memory.md and 30_encoding.md about every operation and
every step. -/

namespace Sys2Proof.Machine

/-- Settles O3: a step is an operation or the answer to an illegal opcode byte. -/
theorem stepKeepsTheInvariant : Obligations.StepKeepsTheInvariant := by
  intro s t h hstep
  obtain ⟨i, rest, -, hexec⟩ | ⟨op, rest, -, rfl⟩ := step_cases hstep
  · exact h.exec hexec
  · exact h.respond ..

/-- Settles O2: no cell is written, the cursor is invalid, and the line is released. -/
theorem resetMeetsTheInvariant : Obligations.ResetMeetsTheInvariant := by
  have hreset : ∀ p : Params, p.wf = true → Inv (State.resetWith p) := fun p hp =>
    { params := hp
      status := Nat.zero_le 3
      ld := Nat.zero_le 64
      done_ld := nofun
      dd := Memory.wf_nil _
      cg := Memory.wf_nil _
      cursor := nofun
      released := rfl
      devices := rfl }
  refine ⟨hreset {} (by decide), hreset, fun l s hp hl => ?_⟩
  exact { hreset s.params hp with cursor := nofun, devices := hl }

/-- Settles O1: each value stands in the reset state. -/
theorem resetLeavesTheSpecifiedValues : Obligations.ResetLeavesTheSpecifiedValues := by
  unfold Obligations.ResetLeavesTheSpecifiedValues
  exact ⟨rfl, fun p => ⟨rfl, rfl, rfl, rfl, rfl, rfl, rfl, rfl, rfl, rfl, rfl⟩,
    fun l s => ⟨rfl, rfl, rfl, rfl, rfl, rfl, rfl, rfl, rfl, rfl, rfl, rfl, rfl⟩⟩

theorem params_of_exec {i : Instr} {s t : State} (h : exec i s = .next t) : t.params = s.params := by
  obtain ⟨u, hu, ⟨-, rfl⟩ | ⟨status, payload, -, rfl⟩⟩ := exec_eq_next h <;>
    simp [hu.streams_kept]

/-- Settles O4: no update and no response writes the parameters. -/
theorem nothingWritesTheParameters : Obligations.NothingWritesTheParameters := by
  refine ⟨fun i s t => params_of_exec, fun s t hstep => ?_, fun l s => rfl⟩
  obtain ⟨i, rest, -, hexec⟩ | ⟨op, rest, -, rfl⟩ := step_cases hstep
  · exact params_of_exec hexec
  · exact respond_params ..

/-- Settles O5: no other update writes the search, and a `DS.NEXT` after the pass does nothing. -/
theorem onlySearchOperationsWriteTheSearchState :
    Obligations.OnlySearchOperationsWriteTheSearchState := by
  refine ⟨fun i s t hinit hnext hexec => ?_, fun s t hexec hdone => ?_⟩
  · obtain ⟨u, hu, ⟨rfl, -⟩ | ⟨status, payload, -, rfl⟩⟩ := exec_eq_next hexec
    · exact absurd rfl hnext
    · exact .answer _ _ (hu.searchKept hinit hnext)
  · rw [exec_dsNext_of_done hdone] at hexec
    cases hexec
    exact (respond_done ..).trans hdone

/-- Settles O6, by the kinds of update. -/
theorem displayAndLineAreIndependent : Obligations.DisplayAndLineAreIndependent := by
  refine ⟨fun i s t hi hexec => ?_, fun i s t hi hexec => ?_⟩ <;>
    obtain ⟨u, hu, ⟨-, rfl⟩ | ⟨status, payload, -, rfl⟩⟩ := exec_eq_next hexec
  · exact hu.displayKept hi
  · exact .answer _ _ (hu.displayKept hi)
  · exact hu.nonDisplayKept hi
  · exact nonDisplayKept_answer _ _ (hu.nonDisplayKept hi)

/-- Settles O7: only a response writes `ST`. -/
theorem statusRegisterShowsTheLastStatus : Obligations.StatusRegisterShowsTheLastStatus := by
  refine ⟨rfl, fun s => ?_, fun i s t hexec => ?_⟩
  · have happend : s.st.zeroExtend 8 = 0#5 ++ s.st := BitVec.eq_of_toNat_eq <| by
      rw [BitVec.toNat_append, BitVec.toNat_setWidth_of_le (by decide)]
      simp
    exact congrArg some happend
  · obtain ⟨u, hu, hanswer⟩ := exec_eq_next hexec
    obtain ⟨-, hst, hcp, -, hrsp⟩ := hu.streams_kept
    obtain ⟨rfl, rfl⟩ | ⟨status, payload, -, rfl⟩ := hanswer
    · exact ⟨nofun, fun _ => .inr ⟨rfl, hcp, hst, hrsp⟩⟩
    · rw [answer_st, answer_rsp, hrsp, hst]
      refine ⟨fun hi => if_pos hi, fun hi => .inl ⟨payload, ?_, ?_⟩⟩ <;>
        rw [if_neg (Bool.eq_false_iff.mp hi)]
      · rw [Status.code_st]
      · exact Status.st_le status

/-- Settles O8: only a response moves `CP` and writes the response stream. -/
theorem everyCommandIsAnsweredOnce : Obligations.EveryCommandIsAnsweredOnce := by
  intro i s t hexec
  obtain ⟨u, hu, hanswer⟩ := exec_eq_next hexec
  obtain ⟨-, -, hcp, -, hrsp⟩ := hu.streams_kept
  obtain ⟨rfl, rfl⟩ | ⟨status, payload, hlen, rfl⟩ := hanswer
  · exact .inr ⟨rfl, hcp, hrsp⟩
  · rw [answer_cp, answer_rsp, hcp, hrsp, encode_length]
    exact .inl ⟨rfl, _, rfl, hlen⟩

theorem add_le_length_of_drop_eq {stream bytes rest : List Byte} {cp : Nat}
    (h : stream.drop cp = bytes ++ rest) (hpos : 1 ≤ bytes.length) :
    cp + bytes.length ≤ stream.length := by
  have hlen := congrArg List.length h
  rw [List.length_drop, List.length_append] at hlen
  omega

/-- Settles O9: the bytes a step consumes are bytes of the stream. -/
theorem streamsOnlyGoForward : Obligations.StreamsOnlyGoForward := by
  intro s t hstep
  obtain ⟨i, rest, hbytes, hexec⟩ | ⟨op, rest, hbytes, rfl⟩ := step_cases hstep
  · have hle := add_le_length_of_drop_eq hbytes (encode_length i ▸ i.length_pos)
    rw [encode_length] at hle
    obtain ⟨u, hu, hanswer⟩ := exec_eq_next hexec
    obtain ⟨-, -, hcp, hcmd, hrsp⟩ := hu.streams_kept
    obtain ⟨-, rfl⟩ | ⟨status, payload, -, rfl⟩ := hanswer
    · exact ⟨hcmd, hcp.ge, by omega, [], by simpa using hrsp⟩
    · rw [answer_cmd, answer_cp, answer_rsp, hcp, hrsp]
      exact ⟨hcmd, Nat.le_add_right .., hle, _, rfl⟩
  · have hle := add_le_length_of_drop_eq (bytes := [op]) hbytes (le_refl 1)
    exact ⟨respond_cmd .., (Nat.le_add_right ..).trans_eq (respond_cp ..).symm,
      (respond_cp ..).trans_le hle, _, respond_rsp ..⟩

/-- Settles O10: every operation is an update and a response; the decoder answers a command, an illegal
byte or that bytes are missing. -/
theorem onlyMissingBytesStopTheMachine : Obligations.OnlyMissingBytesStopTheMachine := by
  have hexec : ∀ (i : Instr) (s : State), ∃ t, exec i s = .next t := fun i s => by
    obtain ⟨u, -, ⟨-, hexec⟩ | ⟨status, payload, -, hexec⟩⟩ := exec_cases i s <;>
      exact ⟨_, hexec⟩
  refine ⟨hexec, fun s => ?_⟩
  cases hdec : decode (s.cmd.drop s.cp) with
  | command i rest => exact .inl (step_of_command hdec ▸ hexec i s)
  | illegalOpcode op => exact .inl ⟨_, step_of_illegalOpcode hdec⟩
  | incomplete => exact .inr ⟨step_of_incomplete hdec, rfl⟩

end Sys2Proof.Machine
end

section
/-! SUPPORT. What a text leaves on the display: where it fits, and where it runs into an UNDEFINED write
(R203, R207, R212). -/

namespace Sys2Proof.Machine

variable (s : State) (text : List Byte) (len : Nat)

/-- What holds of every text, defined or not. -/
theorem respond_putText_kept :
    Completed len 0x00#8 [] s (respond len .ok [] (putText text s)) ∧
      NonDisplayKept s (respond len .ok [] (putText text s)) ∧
      DisplayFlagsKept s (respond len .ok [] (putText text s)) :=
  ⟨completed_respond len .ok [] (by simp) (by simp),
    nonDisplayKept_respond _ _ _ (nonDisplayKept_putText text s),
    .respond _ _ _ ⟨putText_dispOn text s, putText_curVis text s⟩⟩

/-- Two commands that write the same text leave the same display. -/
theorem respond_putText_alike (len' : Nat) :
    let t := respond len .ok [] (putText text s)
    let u := respond len' .ok [] (putText text s)
    t.undef = u.undef ∧ (u.undef = false → CursorAgrees u t ∧ DdKept u t ∧ CgKept u t) := by
  refine ⟨by simp, fun h => ?_⟩
  rw [respond_undef] at h
  simp [respond_of_defined _ _ _ _ h, CursorAgrees, DdKept, CgKept, ddCell, cgRow]

@[simp] theorem putChar_curRow (c : Byte) : (putChar c s).curRow = s.curRow := by
  obtain ⟨-, -, heq⟩ | ⟨-, -, heq⟩ | ⟨-, heq⟩ := putChar_cases c s <;> rw [heq] <;> rfl

variable {s text}

/-- The cells and the cursor after a text that fits at a defined cursor (R207). -/
theorem respond_putText_of_fits (hcols : s.params.cols ≤ 255) (hdef : cursorDefined s = true)
    (hfit : s.curCol.toNat + text.length ≤ s.params.cols) :
    let t := respond len .ok [] (putText text s)
    t.undef = false ∧ CgKept s t ∧
      (∀ i, i < text.length →
        ddCell t (ddAddr s.params s.curRow.toNat (s.curCol.toNat + i)) = text.getD i 0) ∧
      (∀ a, (∀ i, i < text.length →
        a ≠ ddAddr s.params s.curRow.toNat (s.curCol.toNat + i)) → ddCell t a = ddCell s a) ∧
      (s.curCol.toNat + text.length = s.params.cols → t.curValid = false) ∧
      (s.curCol.toNat + text.length < s.params.cols →
        t.curValid = true ∧ t.curRow = s.curRow ∧
          t.curCol.toNat = s.curCol.toNat + text.length) := by
  obtain ⟨hundef, hvalid, hcol, -⟩ := (cursorDefined_iff s).mp hdef
  obtain ⟨hkept, hinside, hend⟩ := cursor_putText text s hcols (fun _ => hdef) hfit
  have hundef' : (putText text s).undef = false := hkept.trans hundef
  refine ⟨(respond_undef ..).trans hundef', fun a => ?_, fun i hi => ?_, fun a ha => ?_,
    fun hexact => ?_, fun hlt => ?_⟩
  · rw [cgRow_respond _ _ _ _ hundef', cgRow_putText]
  · rw [ddCell_respond _ _ _ _ hundef', ddCell_putText text s hcols (fun _ => hdef) hfit, ddAddr_add,
      if_pos (by omega), Nat.add_sub_cancel_left]
  · simp only [ddAddr_add] at ha
    rw [ddCell_respond _ _ _ _ hundef', ddCell_putText text s hcols (fun _ => hdef) hfit,
      if_neg (not_mem_window_of_forall_ne ha)]
  · rw [respond_curValid _ _ _ _ hundef']
    exact hend (by rintro rfl; simp at hexact; omega) hexact
  · obtain ⟨hrow, hcol', hvalid'⟩ := hinside hlt
    rw [respond_curValid _ _ _ _ hundef', respond_curRow _ _ _ _ hundef',
      respond_curCol _ _ _ _ hundef']
    exact ⟨hvalid'.trans hvalid, hrow, hcol'⟩

/-! ## UNDEFINED writes -/

/-- Without a defined cursor the first character is an UNDEFINED write. -/
theorem putText_undef_of_not_defined (h : cursorDefined s = false) (htext : text ≠ []) :
    (putText text s).undef = true := by
  cases text with
  | nil => exact absurd rfl htext
  | cons c text => exact putText_undef_of_undef text (by simp [putChar, h])

/-- A text that does not fit goes on behind the last column, where the cursor is invalid. -/
theorem putText_undef_of_too_long (hcols : s.params.cols ≤ 255) (hdef : cursorDefined s = true)
    (hlong : s.params.cols < s.curCol.toNat + text.length) : (putText text s).undef = true := by
  obtain ⟨-, -, hcol, -⟩ := (cursorDefined_iff s).mp hdef
  induction text generalizing s with
  | nil => exact absurd hlong (by simp; omega)
  | cons c text ih =>
    rw [List.length_cons] at hlong
    by_cases hlast : s.curCol.toNat + 1 < s.params.cols
    · obtain ⟨hdef', -, hcol', -⟩ := putChar_goesOn c s hcols hdef hlast
      exact ih (by simpa using hcols) hdef' (by rw [putChar_params]; omega)
        (by rw [putChar_params]; omega)
    · have hput : putChar c s = invalidateCursor
          (writeDd (ddAddr s.params s.curRow.toNat s.curCol.toNat) c s) := by
        simp [putChar, hdef, show s.curCol.toNat = s.params.cols - 1 by omega]
      refine putText_undef_of_not_defined (s := putChar c s) ?_ ?_
      · simp [hput, cursorDefined]
      · rintro rfl
        simp at hlong
        omega

/-- A non-empty text is UNDEFINED exactly where the cursor is invalid or the text does not fit
(R212). -/
theorem putText_undef_iff (hcols : s.params.cols ≤ 255) (htext : text ≠ [])
    (hundef : s.undef = false) (hgrid : s.curValid = true →
      s.curCol.toNat < s.params.cols ∧ s.curRow.toNat < s.params.rows) :
    (putText text s).undef = true ↔
      s.curValid = false ∨ s.curCol.toNat + text.length > s.params.cols := by
  cases hvalid : s.curValid with
  | false =>
    simpa using putText_undef_of_not_defined (s := s) (by simp [cursorDefined, hvalid]) htext
  | true =>
    have hdef : cursorDefined s = true := (cursorDefined_iff s).mpr ⟨hundef, hvalid, hgrid hvalid⟩
    by_cases hfit : s.curCol.toNat + text.length ≤ s.params.cols
    · obtain ⟨hkept, -⟩ := cursor_putText text s hcols (fun _ => hdef) hfit
      simpa [hkept, hundef] using hfit
    · simpa [Nat.not_le.mp hfit] using putText_undef_of_too_long hcols hdef (Nat.not_le.mp hfit)

end Sys2Proof.Machine
end

section
/-! SUPPORT. Decimal text: its value, its digits and its length (R16). -/

namespace Sys2Proof.Machine

theorem digitCode_toNat {d : Nat} (h : d < 10) : (digitCode d).toNat = 0x30 + d := by
  rw [digitCode, BitVec.toNat_ofNat, Nat.mod_eq_of_lt (by omega)]

theorem decValue_append (xs : List Byte) (c : Byte) (acc : Nat) :
    decValue (xs ++ [c]) acc = 10 * decValue xs acc + (c.toNat - 0x30) := by
  induction xs generalizing acc with
  | nil => rfl
  | cons x xs ih => exact ih _

/-- A byte is the code of a decimal digit. -/
def IsDigit (c : Byte) : Prop := 0x30 ≤ c.toNat ∧ c.toNat ≤ 0x39

theorem isDigit_digitCode {d : Nat} (h : d < 10) : IsDigit (digitCode d) := by
  rw [IsDigit, digitCode_toNat h]
  omega

/-! ## As many digits as needed -/

variable {fuel n : Nat}

theorem decDigits_of_lt (h : n < 10) : decDigits (fuel + 1) n = [digitCode n] := if_pos h

theorem decDigits_of_ge (h : ¬n < 10) :
    decDigits (fuel + 1) n = decDigits fuel (n / 10) ++ [digitCode (n % 10)] := if_neg h

theorem decDigits_ne_nil (h : n < fuel) : decDigits fuel n ≠ [] := by
  obtain ⟨fuel, rfl⟩ := Nat.exists_eq_succ_of_ne_zero (Nat.ne_zero_of_lt h)
  by_cases hn : n < 10
  · simp [decDigits_of_lt hn]
  · simp [decDigits_of_ge hn]

theorem decValue_decDigits (h : n < fuel) : decValue (decDigits fuel n) 0 = n := by
  induction fuel generalizing n with
  | zero => omega
  | succ fuel ih =>
    by_cases hn : n < 10
    · rw [decDigits_of_lt hn, decValue, decValue, digitCode_toNat hn]
      omega
    · rw [decDigits_of_ge hn, decValue_append, ih (by omega), digitCode_toNat (by omega)]
      omega

theorem isDigit_of_mem_decDigits {c : Byte} (hc : c ∈ decDigits fuel n) : IsDigit c := by
  induction fuel generalizing n with
  | zero => cases hc
  | succ fuel ih =>
    by_cases hn : n < 10
    · rw [decDigits_of_lt hn, List.mem_singleton] at hc
      exact hc ▸ isDigit_digitCode hn
    · rw [decDigits_of_ge hn, List.mem_append, List.mem_singleton] at hc
      obtain hc | rfl := hc
      · exact ih hc
      · exact isDigit_digitCode (by omega)

theorem head?_decDigits_ne_zero (h : n < fuel) (hn0 : n ≠ 0) :
    (decDigits fuel n).head? ≠ some 0x30#8 := by
  induction fuel generalizing n with
  | zero => omega
  | succ fuel ih =>
    by_cases hn : n < 10
    · rw [decDigits_of_lt hn, List.head?_cons, ne_eq, Option.some.injEq, BitVec.toNat_eq,
        digitCode_toNat hn]
      simpa using hn0
    · rw [decDigits_of_ge hn, List.head?_append_of_ne_nil _ (decDigits_ne_nil (by omega))]
      exact ih (by omega) (by omega)

theorem length_decDigits_le {k : Nat} (h : n < 10 ^ (k + 1)) :
    (decDigits fuel n).length ≤ k + 1 := by
  induction k generalizing fuel n with
  | zero =>
    cases fuel with
    | zero => simp [decDigits]
    | succ fuel => simp [decDigits_of_lt (show n < 10 by simpa using h)]
  | succ k ih =>
    cases fuel with
    | zero => simp [decDigits]
    | succ fuel =>
      by_cases hn : n < 10
      · simp [decDigits_of_lt hn]
      · have hdiv : n / 10 < 10 ^ (k + 1) := Nat.div_lt_of_lt_mul (by rwa [← Nat.pow_succ'])
        simpa [decDigits_of_ge hn] using ih hdiv

theorem dec_length_pos (n : Nat) : 1 ≤ (dec n).length :=
  List.length_pos_iff.mpr (decDigits_ne_nil (Nat.lt_succ_self n))

/-- The absolute value of a 16-bit number has at most five digits. -/
theorem dec_natAbs_toInt_length (v : Half) :
    1 ≤ (dec v.toInt.natAbs).length ∧ (dec v.toInt.natAbs).length ≤ 5 := by
  have hle := v.le_toInt
  have hlt := v.toInt_lt
  exact ⟨dec_length_pos _, length_decDigits_le (k := 4) (by omega)⟩

/-! ## Four digits -/

theorem decValue_dec4 (h : n ≤ 9999) : decValue (dec4 n) 0 = n := by
  simp only [dec4, decValue, digitCode_toNat (Nat.mod_lt _ (by decide : 0 < 10))]
  omega

theorem isDigit_of_mem_dec4 {c : Byte} (hc : c ∈ dec4 n) : IsDigit c := by
  simp only [dec4, List.mem_cons, List.not_mem_nil, or_false] at hc
  obtain rfl | rfl | rfl | rfl := hc <;> exact isDigit_digitCode (Nat.mod_lt _ (by decide))

/-! ## Signed numbers -/

theorem sext16_eq_toInt (v : Half) : sext16 v = v.toInt := by
  rw [sext16, BitVec.toInt_eq_toNat_cond]
  split <;> split <;> omega

theorem minusIf_decide (P : Prop) [Decidable P] :
    minusIf (decide P) = if P then [0x2D#8] else [] := by
  by_cases h : P <;> simp [minusIf, h]

theorem numText_sext16 (v : Half) :
    numText (sext16 v) = (if v.toInt < 0 then [0x2D#8] else []) ++ dec v.toInt.natAbs := by
  rw [numText, sext16_eq_toInt, minusIf_decide]

theorem tempText_sext16 (ti tf : Half) :
    tempText (sext16 ti) (sext16 tf) =
      (if ti.toInt < 0 ∨ tf.toInt < 0 then [0x2D#8] else []) ++ dec ti.toInt.natAbs ++ [0x2E#8]
        ++ dec4 tf.toInt.natAbs := by
  rw [tempText, sext16_eq_toInt, sext16_eq_toInt, ← Bool.decide_or, minusIf_decide]

theorem tempPairIllegal_sext16_iff (ti tf : Half) :
    tempPairIllegal (sext16 ti) (sext16 tf) = true ↔
      tf.toInt.natAbs > 9999 ∨ (ti.toInt > 0 ∧ tf.toInt < 0) ∨ (ti.toInt < 0 ∧ tf.toInt > 0) := by
  simp [tempPairIllegal, sext16_eq_toInt, or_assoc]

theorem length_signed (P : Prop) [Decidable P] (digits : List Byte) :
    digits.length ≤ ((if P then [0x2D#8] else []) ++ digits).length ∧
      ((if P then [0x2D#8] else []) ++ digits).length ≤ digits.length + 1 := by
  split <;> simp

end Sys2Proof.Machine
end

section
/-! SUPPORT. The statements of 43_display.md about texts, and of 00_scope.md about decimal text. -/

namespace Sys2Proof.Machine

/-- Settles O51: the cells are a window of the row, and an exact fit leaves the cursor invalid. -/
theorem printFillsTheCells : Obligations.PrintFillsTheCells := by
  refine ⟨fun _ => rfl, fun s text => ⟨_, exec_lcdPrint s text, respond_putText_kept ..⟩,
    fun s => ⟨_, exec_lcdPrint s [], completed_respond _ _ _ rfl rfl,
      nonDisplayKept_respond _ _ _ (.refl s), .respond _ _ _ (.refl s)⟩,
    fun s text hwf hundef hvalid hcol hrow hfit => ?_⟩
  obtain ⟨hcols, -⟩ := Params.cols_rows_le_of_wf hwf
  have hdef := (cursorDefined_iff s).mpr ⟨hundef, hvalid, hcol, hrow⟩
  obtain ⟨hcompleted, hother, hflags⟩ := respond_putText_kept s text (2 + text.length)
  exact ⟨_, exec_lcdPrint s text, hcompleted, hother, hflags,
    respond_putText_of_fits _ hcols hdef hfit⟩

/-- Settles O50: the character is a text of length 1. -/
theorem writeCharWritesOneCell : Obligations.WriteCharWritesOneCell := by
  refine ⟨fun _ => rfl, fun s c => ⟨_, exec_lcdWriteChar s c, respond_putText_kept ..⟩,
    fun s c hwf hundef hvalid hcol hrow => ?_⟩
  obtain ⟨hcols, -⟩ := Params.cols_rows_le_of_wf hwf
  have hdef := (cursorDefined_iff s).mpr ⟨hundef, hvalid, hcol, hrow⟩
  obtain ⟨hcompleted, hother, hflags⟩ := respond_putText_kept s [c] 2
  obtain ⟨hundef', hcg, hinside, houtside, hexact, hlt⟩ :=
    respond_putText_of_fits (text := [c]) 2 hcols hdef hcol
  refine ⟨_, exec_lcdWriteChar s c, hcompleted, hother, hflags, hundef', hcg,
    hinside 0 Nat.zero_lt_one, fun a ha => houtside a fun i hi => ?_, ?_,
    fun h => hexact (by simp; omega), fun h => ?_⟩
  · obtain rfl : i = 0 := Nat.lt_one_iff.mp hi
    exact ha
  · rw [respond_curRow _ _ _ _ (by simpa using hundef')]
    exact putChar_curRow s c
  · obtain ⟨hvalid', -, hcol'⟩ := hlt (by simp; omega)
    exact ⟨hvalid', hcol'⟩

/-- Settles O52: only a character write makes the display undefined, and nothing makes it defined
again. -/
theorem undefinedWritesTouchTheDisplayOnly : Obligations.UndefinedWritesTouchTheDisplayOnly := by
  refine ⟨fun s text hwf htext hundef hgrid => ?_, fun s c hbad => ?_, fun i s t hundef hexec => ?_⟩
  · obtain ⟨hcols, -⟩ := Params.cols_rows_le_of_wf hwf
    obtain ⟨hcompleted, hother, hflags⟩ := respond_putText_kept s text (2 + text.length)
    refine ⟨_, exec_lcdPrint s text, hcompleted, hother, hflags, ?_⟩
    rw [respond_undef]
    exact putText_undef_iff hcols htext hundef hgrid
  · obtain ⟨hcompleted, hother, hflags⟩ := respond_putText_kept s [c] 2
    have hdef : cursorDefined s = false := by
      obtain h | h := hbad <;> simp [cursorDefined, h]
    refine ⟨_, exec_lcdWriteChar s c, hcompleted, hother, hflags, ?_⟩
    rw [respond_undef]
    exact putText_undef_of_not_defined hdef (List.cons_ne_nil _ _)
  · obtain ⟨u, hu, ⟨-, rfl⟩ | ⟨status, payload, -, rfl⟩⟩ := exec_eq_next hexec
    · exact hu.undef hundef
    · rw [answer_undef]
      exact hu.undef hundef

/-- Settles O54: the clear leaves blanks and the cursor at the region's start; the text covers the
cells it has characters for and leaves the others. -/
theorem clearThenPrintLeavesNoRemnants : Obligations.ClearThenPrintLeavesNoRemnants := by
  intro s col row len text hwf hundef hcol hrow hlen htext
  obtain ⟨-, hclear, -⟩ := clearRegionBlanksItsCells
  obtain ⟨t, hexec, -, -, -, hundef', hcleared⟩ := hclear s col row len hcol hrow hlen
  obtain ⟨rfl, rfl, hvalid, -, hblank, -⟩ := hcleared hundef
  have hparams := params_of_exec hexec
  rw [← hparams] at hwf hcol hrow hlen hblank ⊢
  obtain ⟨hcols, -⟩ := Params.cols_rows_le_of_wf hwf
  have hdef := (cursorDefined_iff t).mpr ⟨hundef'.trans hundef, hvalid, hcol, hrow⟩
  obtain ⟨hundef'', -, hinside, houtside, -⟩ :=
    respond_putText_of_fits (text := text) (2 + text.length) hcols hdef (by omega)
  refine ⟨t, _, hexec, exec_lcdPrint t text, hundef'', fun i hi => ?_⟩
  by_cases hit : i < text.length
  · rw [hinside i hit, List.getD_eq_getElem _ _ hit, List.getD_eq_getElem _ _ hit]
  · rw [houtside _ fun j hj => by rw [ddAddr_add, ddAddr_add]; omega, hblank i hi,
      List.getD_eq_default _ _ (Nat.not_lt.mp hit)]

/-- Settles O55, by the value, the digits and the first digit of `decDigits`. -/
theorem decimalTextIsTheNumber : Obligations.DecimalTextIsTheNumber :=
  ⟨fun n => ⟨decValue_decDigits (Nat.lt_succ_self n), fun _ => isDigit_of_mem_decDigits,
      head?_decDigits_ne_zero (Nat.lt_succ_self n)⟩,
    rfl, fun _ hn => ⟨decValue_dec4 hn, rfl, fun _ => isDigit_of_mem_dec4⟩⟩

/-- Settles O56: both commands write the same text; it has a sign and at most five digits. -/
theorem printNumPrintsTheNumber : Obligations.PrintNumPrintsTheNumber := by
  refine ⟨fun _ => rfl, fun s v => ?_⟩
  have hexec := exec_lcdPrintNum s v
  rw [numText_sext16] at hexec
  refine ⟨_, _, _, rfl, ?_, ?_, hexec, exec_lcdPrint s _, ?_⟩
  · exact (dec_length_pos _).trans (length_signed ..).1
  · have hlen := (dec_natAbs_toInt_length v).2
    exact (length_signed ..).2.trans (by omega)
  · obtain ⟨hcompleted, hother, hflags⟩ := respond_putText_kept s _ 3
    exact ⟨hcompleted, hother, hflags, respond_putText_alike ..⟩

/-- Settles O57: both commands write the same text; a pair no decode produces is refused. -/
theorem printTempPrintsThePair : Obligations.PrintTempPrintsThePair := by
  refine ⟨fun _ _ => rfl, fun s ti tf hfrac hpos hneg => ?_, fun s ti tf h =>
    ⟨_, exec_lcdPrintTemp_of_illegal s ((tempPairIllegal_sext16_iff ti tf).mpr h),
      completed_kept_raise ..⟩⟩
  have hlegal : tempPairIllegal (sext16 ti) (sext16 tf) = false := by
    rw [Bool.eq_false_iff, ne_eq, tempPairIllegal_sext16_iff]
    omega
  have hexec := exec_lcdPrintTemp s hlegal
  rw [tempText_sext16] at hexec
  have hsign := length_signed (ti.toInt < 0 ∨ tf.toInt < 0) (dec ti.toInt.natAbs)
  have hint := dec_natAbs_toInt_length ti
  have hlen4 : (dec4 tf.toInt.natAbs).length = 4 := rfl
  refine ⟨_, _, _, rfl, ?_, ?_, hexec, exec_lcdPrint s _, ?_⟩
  · rw [List.length_append, List.length_append, List.length_singleton]
    omega
  · rw [List.length_append, List.length_append, List.length_singleton]
    omega
  · obtain ⟨hcompleted, hother, hflags⟩ := respond_putText_kept s _ 5
    exact ⟨hcompleted, hother, hflags, respond_putText_alike ..⟩

end Sys2Proof.Machine
end

section
/-! SUPPORT. The picture (R202), and the statements of 43_display.md about it. -/

namespace Sys2Proof.Machine

variable {s : State} {row col y x : Nat}

theorem pixel_of_dark (h : s.dispOn = false) : pixel s row col y x = false := by
  simp [pixel, h]

/-- Without a visible cursor a pixel is the bit of the cell's glyph. -/
theorem pixel_of_no_cursor (h : s.curVis = false) :
    pixel s row col y x =
      (s.dispOn && (glyphRow s (ddCell s (ddAddr s.params row col)) y).getLsbD (4 - x)) := by
  simp [pixel, h, Config.glyphW]

theorem glyphRow_blank : glyphRow s 0x20#8 y = 0#5 := rfl

/-- Settles O59: the cell still names the slot, and the slot's rows are the loaded ones. -/
theorem loadedGlyphShowsAtOnce : Obligations.LoadedGlyphShowsAtOnce := by
  intro s slot g row col y x hslot hundef hon hvis hcell hy hx
  obtain ⟨-, hload, -⟩ := loadGlyphWritesItsSlot
  obtain ⟨t, hexec, -, -, ⟨hon', hvis'⟩, -, hloaded⟩ := hload s slot g hslot
  obtain ⟨-, hdd, hrows, -⟩ := hloaded hundef
  refine ⟨t, hexec, ?_⟩
  rw [pixel_of_no_cursor (hvis'.trans hvis), params_of_exec hexec, hdd, hcell, hon', hon, glyphRow,
    if_pos hslot, hrows y hy, BitVec.getLsbD_extractLsb', decide_eq_true (by omega), Nat.zero_add]
  rfl

/-- Settles O60: the formula is `pixel` itself where the place of the cursor is specified. -/
theorem pictureShowsBlanksAndTheCursor : Obligations.PictureShowsBlanksAndTheCursor := by
  refine ⟨fun s row col y x hcur => ?_, fun s c row col y x => ?_, fun s row col y x hvis hcell => ?_⟩
  · have hcursor : (s.curVis && cursorAt s row col) =
        (s.curVis && decide (row = s.curRow.toNat ∧ col = s.curCol.toNat)) := by
      obtain hvalid | hvis := hcur
      · rw [cursorAt, if_pos hvalid]
      · rw [hvis, Bool.false_and, Bool.false_and]
    rw [pixel, hcursor]
    rfl
  · obtain ⟨-, -, -, -, hctrl⟩ := ctrlSetsTheDisplayFlags
    obtain ⟨t, hexec, -, hon, -, -, -, hkept⟩ := hctrl s false c
    exact ⟨t, hexec, pixel_of_dark hon, fun hundef => (hkept hundef).2⟩
  · rw [pixel_of_no_cursor hvis, hcell, glyphRow_blank, BitVec.getLsbD_zero, Bool.and_false]

end Sys2Proof.Machine
end

section
/-! SUPPORT. A round that a (1, 1) pair cuts short: what the line saw (R146, R312). -/

namespace Sys2Proof.Machine

variable {p : Params} {rom : Addr} {ld left k lz : Nat} {t : Addr} {l l' : Line}

/-- One bit step of a round: two slots are read, and a pair other than (1, 1) is followed by a
direction (R145). -/
theorem roundBits_succ (p : Params) (rom : Addr) (ld left k lz : Nat) (t : Addr) (l : Line) :
    roundBits p rom ld (left + 1) k lz t l =
      let b := (lineRead p l).1
      let c := (lineRead p (afterReads p 1 l)).1
      if b && c then (.noAnswer, afterReads p 2 l)
      else roundBits p rom ld left (k + 1) (nextLastZero rom ld k b c lz)
        (setAddrBit t k (pairDir rom ld k b c))
        (lineWrite p (pairDir rom ld k b c) (afterReads p 2 l)) := rfl

theorem afterReads_two_events (l : Line) :
    (afterReads p 2 l).events =
      [.read (lineRead p (afterReads p 1 l)).1, .read (lineRead p l).1] ++ l.events := rfl

theorem bitStep_events (dir : Bool) (l : Line) :
    (lineWrite p dir (afterReads p 2 l)).events =
      [.write dir, .read (lineRead p (afterReads p 1 l)).1, .read (lineRead p l).1] ++ l.events :=
  rfl

/-- The events, newest first, of m full bit steps and a pair (1, 1). -/
structure CutShort (m : Nat) (new : List LineEvent) : Prop where
  noReset : new.count (.reset true) = 0 ∧ new.count (.reset false) = 0
  writes  : new.count (.write true) + new.count (.write false) = m
  reads   : new.count (.read true) + new.count (.read false) = 2 * (m + 1)
  newest  : ∃ older, new = .read true :: .read true :: older

theorem CutShort.ofPair : CutShort 0 [.read true, .read true] :=
  ⟨by decide, by decide, by decide, [], rfl⟩

/-- A full bit step before the others. -/
theorem CutShort.afterStep {m : Nat} {new : List LineEvent} (h : CutShort m new) (dir c b : Bool) :
    CutShort (m + 1) (new ++ [.write dir, .read c, .read b]) := by
  obtain ⟨⟨hreset, hreset'⟩, hwrites, hreads, older, rfl⟩ := h
  have hcounts : let step := [LineEvent.write dir, .read c, .read b]
      step.count (.reset true) = 0 ∧ step.count (.reset false) = 0 ∧
        step.count (.write true) + step.count (.write false) = 1 ∧
        step.count (.read true) + step.count (.read false) = 2 := by
    revert dir c b
    decide
  obtain ⟨hr, hr', hw, hrd⟩ := hcounts
  refine ⟨⟨?_, ?_⟩, ?_, ?_, _, rfl⟩ <;> simp only [List.count_append] <;> omega

theorem roundBits_noAnswer (h : roundBits p rom ld left k lz t l = (.noAnswer, l')) :
    ∃ m new, m < left ∧ l'.events = new ++ l.events ∧ CutShort m new := by
  induction left generalizing k lz t l with
  | zero => cases h
  | succ left ih =>
    rw [roundBits_succ] at h
    simp only at h
    split at h
    · next hpair =>
      obtain ⟨hb, hc⟩ := Bool.and_eq_true_iff.mp hpair
      cases h
      refine ⟨0, _, Nat.succ_pos left, afterReads_two_events l, ?_⟩
      rw [hb, hc]
      exact .ofPair
    · obtain ⟨m, new, hm, hevents, hcut⟩ := ih h
      rw [bitStep_events, ← List.append_assoc] at hevents
      exact ⟨m + 1, _, Nat.succ_lt_succ hm, hevents, hcut.afterStep _ _ _⟩

theorem roundBits_ne_noPresence : (roundBits p rom ld left k lz t l).1 ≠ .noPresence := by
  induction left generalizing k lz t l with
  | zero => nofun
  | succ left ih =>
    rw [roundBits_succ]
    simp only
    split
    · nofun
    · exact ih

theorem round_of_presence (h : envPresence l.env l.events = true) :
    round p rom ld l = roundBits p rom ld 64 1 0 zeroAddr (roundStart p l) := by
  have hreset : lineReset l = (true, (lineReset l).2) := Prod.ext h rfl
  rw [round, hreset]
  rfl

/-- Write slots are neither reset pulses nor read slots. -/
theorem count_map_write (bs : List Bool) :
    let new := bs.map LineEvent.write
    new.count (.reset true) = 0 ∧ new.count (.reset false) = 0 ∧
      new.count (.write true) + new.count (.write false) = bs.length ∧
      new.count (.read true) + new.count (.read false) = 0 := by
  have hcount (b : Bool) : (bs.map LineEvent.write).count (.write b) = bs.count b :=
    List.count_map_of_injective bs LineEvent.write (fun _ _ h => LineEvent.write.inj h) b
  have hother {e : LineEvent} (he : ∀ b, LineEvent.write b ≠ e) :
      (bs.map LineEvent.write).count e = 0 :=
    List.count_eq_zero.mpr fun hmem => by
      obtain ⟨b, -, hb⟩ := List.mem_map.mp hmem
      exact he b hb
  refine ⟨hother nofun, hother nofun, ?_, ?_⟩
  · rw [hcount, hcount, List.count_true_add_count_false]
  · rw [hother (e := .read true) nofun, hother (e := .read false) nofun]

/-- The events before the first bit step, newest first: eight write slots and the reset pulse. -/
theorem count_roundStart_events (p : Params) :
    let start := ((bitsOf p.cmdSearch).map LineEvent.write).reverse ++ [.reset true]
    start.count (.reset true) = 1 ∧ start.count (.reset false) = 0 ∧
      start.count (.write true) + start.count (.write false) = 8 ∧
      start.count (.read true) + start.count (.read false) = 0 := by
  obtain ⟨hreset, hreset', hwrites, hreads⟩ := count_map_write (bitsOf p.cmdSearch)
  have hlen : (bitsOf p.cmdSearch).length = 8 := rfl
  simp only [List.count_append, List.count_reverse, hreset, hreset']
  refine ⟨rfl, rfl, ?_, ?_⟩
  · exact hwrites.trans hlen
  · exact hreads

/-- Settles O33: the bit steps before the pair (1, 1) each read two slots and write one. -/
theorem roundCutShortCountsItsSlots : Obligations.RoundCutShortCountsItsSlots := by
  intro p rom ld l l' e hround
  cases hpresence : envPresence l.env l.events with
  | false =>
    rw [round_of_no_presence hpresence] at hround
    cases hround
    exact ⟨fun _ => by rw [lineReset_events, hpresence], nofun⟩
  | true =>
    rw [round_of_presence hpresence] at hround
    refine ⟨?_, ?_⟩ <;> rintro rfl
    · exact absurd (congrArg Prod.fst hround) roundBits_ne_noPresence
    · obtain ⟨m, new, hm, hevents, ⟨⟨hreset, hreset'⟩, hwrites, hreads, older, rfl⟩⟩ :=
        roundBits_noAnswer hround
      obtain ⟨hsreset, hsreset', hswrites, hsreads⟩ := count_roundStart_events p
      rw [roundStart_events hpresence, List.reverse_cons, ← List.append_assoc] at hevents
      refine ⟨m + 1, _, by omega, by omega, hevents, ?_, ?_, ?_, ?_, rfl⟩ <;>
        simp only [List.count_append] at * <;> omega

end Sys2Proof.Machine
end

section
/-! SUPPORT. A line that answers the listed levels (R55): transfers over the oracle. -/

namespace Sys2Proof.Machine

variable (p : Params) {l : Line} {answers later : List Bool}

theorem writeBits_env_of_oracle (bs : List Bool) (h : l.env = .oracle answers) :
    (writeBits p bs l).env = .oracle answers := by
  induction bs generalizing l with
  | nil => exact h
  | cons b bs ih => exact ih (by rw [lineWrite_env, h]; rfl)

theorem writeBytes_env_of_oracle (vs : List Byte) (h : l.env = .oracle answers) :
    (writeBytes p vs l).env = .oracle answers := by
  induction vs generalizing l with
  | nil => exact h
  | cons v vs ih => exact ih (writeBits_env_of_oracle p _ h)

theorem lineReset_env_of_oracle (h : l.env = .oracle answers) :
    (lineReset l).2.env = .oracle answers.tail := by rw [lineReset_env, h]; rfl

theorem afterReads_env_of_oracle (n : Nat) (h : l.env = .oracle answers) :
    (afterReads p n l).env = .oracle (answers.drop n) := by
  induction n with
  | zero => exact h
  | succ n ih => rw [afterReads_succ', lineRead_env, ih, ← List.tail_drop]; rfl

/-- The n-th slot samples the n-th listed level. -/
theorem lineRead_afterReads_of_oracle {n : Nat} {b : Bool} (h : l.env = .oracle answers)
    (hb : answers[n]? = some b) : (lineRead p (afterReads p n l)).1 = b := by
  obtain ⟨hn, rfl⟩ := List.getElem?_eq_some_iff.mp hb
  rw [lineRead_fst, afterReads_env_of_oracle p n h, List.drop_eq_getElem_cons hn]
  rfl

/-- The byte of eight equal bits. -/
def levelByte (b : Bool) : Byte := if b then 0xFF#8 else 0x00#8

theorem levelByte_getLsbD (b : Bool) {i : Nat} (hi : i < 8) : (levelByte b).getLsbD i = b := by
  cases b
  · exact BitVec.getLsbD_zero
  · exact (BitVec.getLsbD_allOnes (v := 8)).trans (decide_eq_true hi)

theorem readByte_of_oracle {b : Bool} {n : Nat}
    (h : l.env = .oracle (List.replicate (n + 8) b ++ later)) :
    (readByte p l).1 = levelByte b ∧
      (readByte p l).2.env = .oracle (List.replicate n b ++ later) := by
  constructor
  · refine BitVec.eq_of_getLsbD_eq fun i hi => ?_
    rw [readByte_getLsbD p hi, levelByte_getLsbD b hi]
    refine lineRead_afterReads_of_oracle p h ?_
    rw [List.getElem?_append_left (by simp; omega), List.getElem?_replicate, if_pos (by omega)]
  · rw [readByte_snd, afterReads_env_of_oracle p 8 h, List.drop_append_of_le_length (by simp),
      List.drop_replicate, Nat.add_sub_cancel]

theorem readBytes_of_oracle {b : Bool} {n : Nat}
    (h : l.env = .oracle (List.replicate (8 * n) b ++ later)) :
    (readBytes p n l).1 = List.replicate n (levelByte b) := by
  induction n generalizing l with
  | zero => rfl
  | succ n ih =>
    obtain ⟨hbyte, henv⟩ := readByte_of_oracle p h
    rw [readBytes_succ, hbyte, ih henv]
    rfl

/-- The scratchpad that a line gives which answers presence and then one level for ever. -/
theorem scratchpadRead_of_oracle (s : State) (a : Addr) {b : Bool} (h : s.line.env =
      .oracle (true :: List.replicate (8 * s.params.spLen) b ++ later)) :
    (scratchpadRead s a).1 = List.replicate s.params.spLen (levelByte b) :=
  readBytes_of_oracle _ (writeBytes_env_of_oracle _ _ (lineReset_env_of_oracle h))

/-! ## A round on a line that reads 0 -/

theorem setAddrBit_zeroAddr (k : Nat) : setAddrBit zeroAddr k false = zeroAddr := by
  have hbyte (i : Nat) : setByteBit 0#8 i false = 0#8 := by simp [setByteBit]
  unfold setAddrBit zeroAddr
  split <;> simp [hbyte]

/-- Every pair is a collision above `LD` = 0, so each direction is 0 and `last_zero` moves to it. -/
theorem roundBits_of_zeros {left k : Nat} (rom : Addr) (hk : 0 < k)
    (h : l.env = .oracle (List.replicate (2 * left) false ++ later)) :
    ∃ l', roundBits p rom 0 left k (k - 1) zeroAddr l =
      (.completed zeroAddr (k + left - 1), l') := by
  induction left generalizing k l with
  | zero => exact ⟨l, rfl⟩
  | succ left ih =>
    have hb : (lineRead p l).1 = false := lineRead_afterReads_of_oracle (n := 0) p h rfl
    have hc : (lineRead p (afterReads p 1 l)).1 = false :=
      lineRead_afterReads_of_oracle (n := 1) p h rfl
    have hdir : collisionDir rom 0 k = false := collisionDir_of_gt hk
    have hlz : nextLastZero rom 0 k false false (k - 1) = k + 1 - 1 := if_pos ⟨rfl, hdir⟩
    have henv : (lineWrite p false (afterReads p 2 l)).env =
        .oracle (List.replicate (2 * left) false ++ later) := by
      rw [lineWrite_env, afterReads_env_of_oracle p 2 h]
      rfl
    obtain ⟨l', hrest⟩ := ih (Nat.succ_pos k) henv
    refine ⟨l', ?_⟩
    rw [roundBits_succ, hb, hc]
    simp only [Bool.and_false, Bool.false_eq_true, if_false, pairDir_self, hdir, hlz,
      setAddrBit_zeroAddr]
    rw [hrest, Nat.succ_add_eq_add_succ]

theorem round_of_zeros (rom : Addr)
    (h : l.env = .oracle (true :: List.replicate 128 false ++ later)) :
    ∃ l', round p rom 0 l = (.completed zeroAddr 64, l') := by
  rw [round_of_presence (by rw [h]; rfl)]
  exact roundBits_of_zeros (left := 64) p rom Nat.zero_lt_one
    (writeBits_env_of_oracle p _ (lineReset_env_of_oracle h))

end Sys2Proof.Machine
end

section
/-! SUPPORT. The statements of 41_device_search.md and 42_sensor_driver.md about checksums, the decoder
and dead lines. -/

namespace Sys2Proof.Machine

theorem crc8_replicate_zero (n : Nat) : crc8 (List.replicate n 0x00#8) = 0x00#8 := by
  induction n with
  | zero => rfl
  | succ n ih => exact ih

theorem addrValid_zeroAddr : addrValid zeroAddr = true :=
  (addrValid_iff_crc8_toList _).mpr (crc8_replicate_zero 8)

/-- Settles O38: the last byte taken clears the register that equals it. -/
theorem crcOfABlockWithItsCrcIsZero : Obligations.CrcOfABlockWithItsCrcIsZero := by
  refine ⟨crc8_replicate_zero, fun block => ?_, addrValid_iff_crc8_toList⟩
  rw [crc8, crcFrom_append]
  exact (crcByte_eq_zero_iff ..).mpr rfl

/-- Settles O43: both parts are those of division toward zero, also where the parameter `DECODE_MIN`
has the spec's default. -/
theorem decoderArithmeticLaws : Obligations.DecoderArithmeticLaws := by
  intro p reg
  have hle := reg.le_toInt
  have hlt := reg.toInt_lt
  have hdivmod : 16 * reg.toInt.tdiv 16 + reg.toInt.tmod 16 = reg.toInt := Int.mul_tdiv_add_tmod ..
  refine ⟨fun hreg => ?_, fun hreg => ?_⟩
  · rw [decodeTemp_eq_tdiv_tmod p hreg]
    dsimp only
    omega
  · have heq : decodeTemp p reg = (reg.toInt.tdiv 16, reg.toInt.tmod 16 * 625) := by
      by_cases hmin : reg = 0x8000#16
      · subst hmin
        rw [decodeTemp_min, hreg.resolve_left (· rfl)]
        decide
      · exact decodeTemp_eq_tdiv_tmod p hmin
    have hint : (reg.toInt.tdiv 16).natAbs = reg.toInt.natAbs / 16 := Int.natAbs_tdiv ..
    have hfrac : (reg.toInt.tmod 16).natAbs = reg.toInt.natAbs % 16 := Int.natAbs_tmod ..
    rw [heq]
    dsimp only
    omega

/-- The CRC register while it takes eight bytes FF. -/
theorem crcByte_ones :
    [0x00#8, 0x35#8, 0xB4#8, 0x66#8, 0x8D#8, 0x44#8, 0x12#8, 0x14#8].map (crcByte · 0xFF#8) =
      [0x35#8, 0xB4#8, 0x66#8, 0x8D#8, 0x44#8, 0x12#8, 0x14#8, 0xC9#8] := by
  simp [crcByte, crcShifts, crcShift, Config.crcPoly]

/-- Nine bytes FF do not check (R298). -/
theorem scratchpadValid_ones : scratchpadValid (List.replicate 9 (levelByte true)) = false := by
  have hstep := crcByte_ones
  simp only [List.map_cons, List.map_nil, List.cons.injEq, and_true] at hstep
  simp [scratchpadValid, levelByte, List.replicate, crc8, crcFrom, hstep]

/-- Zero bytes check, whatever their number (R298). -/
theorem scratchpadValid_zeros (n : Nat) :
    scratchpadValid (List.replicate n (levelByte false)) = true := by
  rw [scratchpadValid_iff, List.dropLast_replicate, levelByte]
  refine (crc8_replicate_zero _).trans ?_
  cases n <;> simp [List.getLastD_eq_getLast?, List.getLast?_replicate]

theorem scratchpadReg_zeros (n : Nat) :
    scratchpadReg (List.replicate n (levelByte false)) = 0x0000#16 := by
  have hbyte (i : Nat) : (List.replicate n (levelByte false)).getD i 0 = 0 :=
    List.getElem?_getD_replicate_default_eq ..
  rw [scratchpadReg, hbyte, hbyte]
  rfl

theorem tempPayload_zero (p : Params) :
    tempPayload (decodeTemp p 0x0000#16) = List.replicate 4 0x00#8 := by
  rw [decodeTemp_eq_tdiv_tmod p (by decide)]
  decide

/-- Settles O42: the bytes read are nine times FF or all zero, and a round of zeros takes branch 0 at
all 64 bits. -/
theorem deadLinePassesTheChecksOfZeros : Obligations.DeadLinePassesTheChecksOfZeros := by
  refine ⟨fun s a later hlen henv => ?_, fun s a later henv => ?_, fun s later hdone hld henv => ?_⟩
  · have hread : (scratchpadRead s a).1 = List.replicate 9 (levelByte true) := by
      rw [scratchpadRead_of_oracle s a (b := true) (later := later) (by rw [henv, hlen]), hlen]
    refine ⟨_, exec_sdReadTemp_of_presence a (by rw [henv]; rfl), ?_⟩
    rw [hread, scratchpadValid_ones, if_neg Bool.false_ne_true, if_neg Bool.false_ne_true]
    exact completed_respond_line ..
  · refine ⟨_, exec_sdReadTemp_of_presence a (by rw [henv]; rfl), ?_⟩
    rw [scratchpadRead_of_oracle s a henv, scratchpadValid_zeros, scratchpadReg_zeros, if_pos rfl,
      if_pos rfl, tempPayload_zero]
    exact completed_respond_line ..
  · obtain ⟨l', hround⟩ := round_of_zeros s.params s.rom henv
    refine ⟨_, exec_dsNext_of_searchEnds (.yield hdone (by rw [hld]; exact hround) addrValid_zeroAddr),
      completed_respond _ _ _ rfl rfl, respond_rom .., ?_, ?_⟩
    · rw [respond_ld]
      rfl
    · rw [respond_done]
      exact hdone

end Sys2Proof.Machine
end

section
/-! SUPPORT. Write slots in the reference environment, device by device: command bytes, addresses and
function commands (R71, R72). -/

namespace Sys2Proof.Machine

variable (p : Params)

/-- A device takes some write slots. -/
def devWrites : List Bool → Device → Device
  | [], d => d
  | b :: bs, d => devWrites bs (devWrite p b d)

theorem devWrites_append (bs cs : List Bool) (d : Device) :
    devWrites p (bs ++ cs) d = devWrites p cs (devWrites p bs d) := by
  induction bs generalizing d with
  | nil => rfl
  | cons b bs ih => exact ih _

theorem writeBits_env_of_refEnv {pullup : Bool} {devices : List Device} {l : Line}
    (h : l.env = .refEnv pullup devices) (bs : List Bool) :
    (writeBits p bs l).env = .refEnv pullup (devices.map (devWrites p bs)) := by
  induction bs generalizing devices l with
  | nil => exact h.trans (congrArg _ (List.map_id' devices).symm)
  | cons b bs ih =>
    have hwrite : (lineWrite p b l).env = .refEnv pullup (devices.map (devWrite p b)) := by
      rw [lineWrite_env, h]
      rfl
    rw [writeBits, ih hwrite, List.map_map]
    rfl

theorem writeBytes_eq_writeBits (vs : List Byte) (l : Line) :
    writeBytes p vs l = writeBits p (vs.flatMap bitsOf) l := by
  induction vs generalizing l with
  | nil => rfl
  | cons v vs ih =>
    rw [writeBytes, ih, List.flatMap_cons, writeBits_eq_foldl, writeBits_eq_foldl, List.foldl_append,
      writeByte, writeBits_eq_foldl]

theorem lineReset_env_of_refEnv {pullup : Bool} {devices : List Device} {l : Line}
    (h : l.env = .refEnv pullup devices) :
    (lineReset l).2.env = .refEnv pullup (devices.map devReset) := by
  rw [lineReset_env, h]
  rfl

theorem envPresence_of_refEnv {devices : List Device} (h : devices ≠ []) (events : List LineEvent) :
    envPresence (.refEnv true devices) events = true := by
  simp [envPresence, h]

/-! ## Bytes -/

theorem getLsbD_accBit (acc : Byte) {n : Nat} (hn : n < 8) (b : Bool) (j : Nat) :
    (accBit acc n b).getLsbD j = (acc.getLsbD j || (b && decide (n = j))) := by
  have hone : (1#8 <<< n).getLsbD j = decide (n = j) := by
    rw [← BitVec.twoPow_eq, BitVec.getLsbD_twoPow, decide_eq_true hn, Bool.true_and]
  cases b <;> simp [accBit, BitVec.getLsbD_or, hone]

/-- A byte whose bits are taken in order. -/
def accumulated (v : Byte) : Byte :=
  accBit (accBit (accBit (accBit (accBit (accBit (accBit (accBit 0 0 (v.getLsbD 0)) 1
    (v.getLsbD 1)) 2 (v.getLsbD 2)) 3 (v.getLsbD 3)) 4 (v.getLsbD 4)) 5 (v.getLsbD 5)) 6
    (v.getLsbD 6)) 7 (v.getLsbD 7)

theorem accumulated_eq (v : Byte) : accumulated v = v := by
  refine BitVec.eq_of_getLsbD_eq fun i hi => ?_
  simp only [accumulated, getLsbD_accBit, Nat.reduceLT]
  interval_cases i <;> simp

variable (d : Device)

theorem devWrites_idle (bs : List Bool) (h : d.mode = .idle) : devWrites p bs d = d := by
  induction bs with
  | nil => rfl
  | cons b bs ih => rwa [devWrites, show devWrite p b d = d by simp [devWrite, h]]

theorem devWrite_romCmd {n : Nat} (hn : n + 1 < 8) (acc : Byte) (b : Bool) :
    devWrite p b { d with mode := .romCmd n acc } =
      { d with mode := .romCmd (n + 1) (accBit acc n b) } := by
  simp only [devWrite, if_pos hn]

theorem devWrite_func {n : Nat} (hn : n + 1 < 8) (acc : Byte) (b : Bool) :
    devWrite p b { d with mode := .func n acc } =
      { d with mode := .func (n + 1) (accBit acc n b) } := by
  simp only [devWrite, if_pos hn]

theorem devWrites_romCmd (v : Byte) :
    devWrites p (bitsOf v) (devReset d) = { d with mode := afterRomCmd p v } := by
  have hlast (acc : Byte) (b : Bool) : devWrite p b { d with mode := .romCmd 7 acc } =
      { d with mode := afterRomCmd p (accBit acc 7 b) } := rfl
  simp only [bitsOf, devWrites, devReset, devWrite_romCmd, hlast, Nat.reduceAdd, Nat.reduceLT]
  rw [← accumulated, accumulated_eq]

/-- What a device does after its eighth bit of a function command byte (R72). -/
def afterFunc (v : Byte) (d : Device) : Device :=
  if v = p.cmdConvert then { d with pending := true, mode := .idle }
  else if v = p.cmdReadSp then { d with mode := .readSp 0 }
  else { d with mode := .idle }

theorem devWrites_func (v : Byte) :
    devWrites p (bitsOf v) { d with mode := .func 0 0 } = afterFunc p v d := by
  have hlast (acc : Byte) (b : Bool) : devWrite p b { d with mode := .func 7 acc } =
      afterFunc p (accBit acc 7 b) d := rfl
  simp only [bitsOf, devWrites, devWrite_func, hlast, Nat.reduceAdd, Nat.reduceLT]
  rw [← accumulated, accumulated_eq]

/-! ## Addresses -/

/-- The 64 bits of an address in the order they are sent (R15, R174). -/
theorem flatMap_bitsOf_toList (a : Addr) :
    a.toList.flatMap bitsOf = (List.range' 1 (63 + 1)).map (addrBit a) := rfl

theorem eq_of_addrBit_eq {a b : Addr} (h : ∀ k, 1 ≤ k → k ≤ 64 → addrBit a k = addrBit b k) :
    a = b := by
  have hbyte : ∀ i, i < 8 → byteAt a i = byteAt b i := fun i hi =>
    BitVec.eq_of_getLsbD_eq fun m hm => by
      rw [← addrBit_eq_getLsbD_byteAt a i hm, ← addrBit_eq_getLsbD_byteAt b i hm]
      exact h _ (by omega) (by omega)
  have hlist : a.toList = b.toList := by
    rw [toList_eq_map_byteAt, toList_eq_map_byteAt]
    exact List.map_congr_left fun i hi => hbyte i (List.mem_range.mp hi)
  cases a
  cases b
  simpa [Bytes8.toList] using hlist

theorem devWrite_matchRom {k : Nat} {b : Bool} (hk : k ≠ 64) (hb : b = addrBit d.rom k) :
    devWrite p b { d with mode := .matchRom k } = { d with mode := .matchRom (k + 1) } := by
  simp [devWrite, hb, Config.addrBits, Config.addrLen, hk]

theorem devWrite_matchRom_last {b : Bool} (hb : b = addrBit d.rom 64) :
    devWrite p b { d with mode := .matchRom 64 } = { d with mode := .func 0 0 } := by
  simp [devWrite, hb, Config.addrBits, Config.addrLen]

theorem devWrite_matchRom_mismatch {k : Nat} {b : Bool} (hb : b ≠ addrBit d.rom k) :
    devWrite p b { d with mode := .matchRom k } = { d with mode := .idle } := by
  simp [devWrite, hb]

/-- The device's own address from bit k on takes it to its function command. -/
theorem devWrites_matchRom_own {m k : Nat} (hk : k + m = 64) :
    devWrites p ((List.range' k (m + 1)).map (addrBit d.rom)) { d with mode := .matchRom k } =
      { d with mode := .func 0 0 } := by
  induction m generalizing k with
  | zero =>
    obtain rfl : k = 64 := hk
    exact devWrite_matchRom_last p d rfl
  | succ m ih =>
    rw [List.range'_succ, List.map_cons, devWrites, devWrite_matchRom p d (by omega) rfl]
    exact ih (by omega)

/-- Another address makes it idle at the first bit that differs. -/
theorem devWrites_matchRom_other {a : Addr} {m k : Nat} (hk : k + m = 64)
    (hne : ∃ j, k ≤ j ∧ j ≤ 64 ∧ addrBit a j ≠ addrBit d.rom j) :
    devWrites p ((List.range' k (m + 1)).map (addrBit a)) { d with mode := .matchRom k } =
      { d with mode := .idle } := by
  induction m generalizing k with
  | zero =>
    obtain ⟨j, hkj, hj, hdiff⟩ := hne
    obtain rfl : j = k := by omega
    exact devWrite_matchRom_mismatch p d hdiff
  | succ m ih =>
    rw [List.range'_succ, List.map_cons, devWrites]
    by_cases hbit : addrBit a k = addrBit d.rom k
    · rw [devWrite_matchRom p d (by omega) hbit]
      obtain ⟨j, hkj, hj, hdiff⟩ := hne
      have hjk : j ≠ k := by
        rintro rfl
        exact hdiff hbit
      exact ih (by omega) ⟨j, by omega, hj, hdiff⟩
    · rw [devWrite_matchRom_mismatch p d hbit]
      exact devWrites_idle p _ _ rfl

/-! ## A command to one device -/

/-- What the command to address a makes of a device (R63, R72). -/
def commanded (a : Addr) (cmd : Byte) (d : Device) : Device :=
  if d.rom = a then afterFunc p cmd d else { d with mode := .idle }

theorem devWrites_command (hmatch : p.cmdMatch ≠ p.cmdSearch) (a : Addr) (cmd : Byte) :
    devWrites p ((p.cmdMatch :: a.toList ++ [cmd]).flatMap bitsOf) (devReset d) =
      commanded p a cmd d := by
  have hrom : afterRomCmd p p.cmdMatch = .matchRom 1 := by simp [afterRomCmd, hmatch]
  rw [List.cons_append, List.flatMap_cons, List.flatMap_append, List.flatMap_singleton,
    devWrites_append, devWrites_append, devWrites_romCmd, hrom, flatMap_bitsOf_toList]
  by_cases hown : d.rom = a
  · rw [commanded, if_pos hown, ← hown, devWrites_matchRom_own p d (k := 1) (m := 63) rfl, devWrites_func]
  · have hdiff : ∃ j, 1 ≤ j ∧ j ≤ 64 ∧ addrBit a j ≠ addrBit d.rom j := by
      by_contra hall
      push Not at hall
      exact hown (eq_of_addrBit_eq fun k hk hk' => (hall k hk hk').symm)
    rw [commanded, if_neg hown, devWrites_matchRom_other p d (k := 1) (m := 63) rfl hdiff]
    exact devWrites_idle p _ _ rfl

theorem commandSent_env_of_refEnv (hmatch : p.cmdMatch ≠ p.cmdSearch) {pullup : Bool}
    {devices : List Device} {l : Line} (h : l.env = .refEnv pullup devices) (a : Addr) (cmd : Byte) :
    (commandSent p a cmd l).env = .refEnv pullup (devices.map (commanded p a cmd)) := by
  have hdevices : devWrites p ((p.cmdMatch :: a.toList ++ [cmd]).flatMap bitsOf) ∘ devReset =
      commanded p a cmd := funext fun d => by
    rw [Function.comp_apply, devWrites_command p d hmatch]
  rw [commandSent, writeBytes_eq_writeBits,
    writeBits_env_of_refEnv p (lineReset_env_of_refEnv h), List.map_map, hdevices]

end Sys2Proof.Machine
end

section
/-! SUPPORT. Reading the scratchpad of the one device that sends (R73). -/

namespace Sys2Proof.Machine

variable (p : Params)

/-- The device before it sends bit i of its scratchpad. -/
def sending (i : Nat) (d : Device) : Device :=
  { d with mode := if i < 8 * p.spLen then .readSp i else .idle }

theorem devAfterRead_sending (i : Nat) (d : Device) :
    devAfterRead p (sending p i d) = sending p (i + 1) d := by
  unfold sending
  by_cases h : i < 8 * p.spLen
  · simp [devAfterRead, h]
  · simp [devAfterRead, h, Nat.not_lt_of_lt (Nat.lt_succ_of_le (Nat.not_lt.mp h))]

theorem devLevel_sending {i : Nat} (h : i < 8 * p.spLen) (d : Device) :
    devLevel (sending p i d) = (d.sp.getD (i / 8) 0).getLsbD (i % 8) := by
  simp [devLevel, sending, h]

variable {p} {before after : List Device} {d : Device}

theorem afterReads_env_of_sending (hidle : ∀ e ∈ before ++ after, e.mode = .idle) {i : Nat} {l : Line}
    (h : l.env = .refEnv true (before ++ sending p i d :: after)) (n : Nat) :
    (afterReads p n l).env = .refEnv true (before ++ sending p (i + n) d :: after) := by
  have hkeep {es : List Device} (hes : ∀ e ∈ es, e.mode = .idle) : es.map (devAfterRead p) = es :=
    (List.map_congr_left fun e he => devAfterRead_of_idle p (hes e he)).trans (List.map_id' es)
  rw [List.forall_mem_append] at hidle
  obtain ⟨hbefore, hafter⟩ := hidle
  induction n with
  | zero => exact h
  | succ n ih =>
    rw [afterReads_succ', lineRead_env, ih, envAfterRead, List.map_append, List.map_cons,
      hkeep hbefore, hkeep hafter, devAfterRead_sending]
    rfl

theorem lineRead_of_sending (hidle : ∀ e ∈ before ++ after, e.mode = .idle) {i : Nat} {l : Line}
    (h : l.env = .refEnv true (before ++ sending p i d :: after)) (hi : i < 8 * p.spLen) :
    (lineRead p l).1 = (d.sp.getD (i / 8) 0).getLsbD (i % 8) := by
  rw [List.forall_mem_append] at hidle
  obtain ⟨hbefore, hafter⟩ := hidle
  have hreleased {es : List Device} (hes : ∀ e ∈ es, e.mode = .idle) : es.all devLevel = true :=
    List.all_eq_true.mpr fun e he => devLevel_of_idle (hes e he)
  rw [lineRead_fst, h, envLevel, List.all_append, List.all_cons, hreleased hbefore, hreleased hafter,
    devLevel_sending p hi]
  simp

theorem readByte_of_sending (hidle : ∀ e ∈ before ++ after, e.mode = .idle) {q : Nat} {l : Line}
    (h : l.env = .refEnv true (before ++ sending p (8 * q) d :: after)) (hq : q < p.spLen) :
    (readByte p l).1 = d.sp.getD q 0 := by
  refine BitVec.eq_of_getLsbD_eq fun i hi => ?_
  have hdiv : (8 * q + i) / 8 = q := by omega
  have hmod : (8 * q + i) % 8 = i := by omega
  rw [readByte_getLsbD p hi,
    lineRead_of_sending hidle (afterReads_env_of_sending hidle h i) (by omega), hdiv, hmod]

theorem readBytes_of_sending (hidle : ∀ e ∈ before ++ after, e.mode = .idle) {q n : Nat} {l : Line}
    (h : l.env = .refEnv true (before ++ sending p (8 * q) d :: after)) (hq : q + n ≤ p.spLen) :
    (readBytes p n l).1 = (List.range' q n).map (d.sp.getD · 0) := by
  induction n generalizing q l with
  | zero => rfl
  | succ n ih =>
    have hnext : (readByte p l).2.env = .refEnv true (before ++ sending p (8 * (q + 1)) d :: after) := by
      rw [readByte_snd]
      exact afterReads_env_of_sending hidle h 8
    rw [readBytes_succ, readByte_of_sending hidle h (by omega), ih hnext (by omega),
      List.range'_succ, List.map_cons]

theorem map_getD_range' (sp : List Byte) : (List.range' 0 sp.length).map (sp.getD · 0) = sp := by
  refine List.ext_getElem (by simp) fun i hi hi' => ?_
  simp [List.getD_eq_getElem?_getD, List.getElem?_eq_getElem hi']

end Sys2Proof.Machine
end

section
/-! SUPPORT. One reading over the reference environment (R180). -/

namespace Sys2Proof.Machine

variable (p : Params)

/-- A conversion command, a wait and a read command to address a, as one device sees them. -/
def measured (a : Addr) (res : BitVec 2) (d : Device) : Device :=
  commanded p a p.cmdReadSp (devWait p res (commanded p a p.cmdConvert d))

theorem devWait_rom (res : BitVec 2) (d : Device) : (devWait p res d).rom = d.rom := by
  unfold devWait
  split <;> rfl

theorem measured_mode_of_ne {a : Addr} {d : Device} (res : BitVec 2) (h : d.rom ≠ a) :
    (measured p a res d).mode = .idle := by
  have hrom : (devWait p res (commanded p a p.cmdConvert d)).rom ≠ a := by
    rw [devWait_rom, commanded, if_neg h]
    exact h
  rw [measured, commanded, if_neg hrom]

/-- The scratchpad after a conversion (R74). -/
def convertedSp (d : Device) : List Byte :=
  let body := lowByte d.nextTemp :: highByte d.nextTemp :: (d.sp.dropLast.drop 2)
  body ++ [crc8 body]

theorem convertedSp_length {p : Params} {d : Device} (hp : 3 ≤ p.spLen) (h : d.sane p = true) :
    (convertedSp d).length = p.spLen := by
  simp only [Device.sane, Bool.and_eq_true, decide_eq_true_eq] at h
  obtain ⟨hlen, -⟩ := h
  simp [convertedSp, hlen]
  omega

theorem convertedSp_valid (d : Device) : scratchpadValid (convertedSp d) = true :=
  scratchpadValid_concat _

theorem scratchpadReg_convertedSp (d : Device) : scratchpadReg (convertedSp d) = d.nextTemp :=
  halfOf_lowByte_highByte d.nextTemp

/-- The device that was addressed has converted and is about to send its scratchpad. -/
theorem measured_own (hread : p.cmdReadSp ≠ p.cmdConvert) {d : Device} {res : BitVec 2}
    (hp : 0 < p.spLen) (hres : p.tConv d.res ≤ p.tConv res) :
    measured p d.rom res d = sending p 0 { d with sp := convertedSp d, pending := false } := by
  have hconvert : commanded p d.rom p.cmdConvert d = { d with pending := true, mode := .idle } := by
    rw [commanded, if_pos rfl, afterFunc, if_pos rfl]
  have hwait : devWait p res { d with pending := true, mode := .idle } =
      { d with sp := convertedSp d, pending := false, mode := .idle } := by
    simp [devWait, hres, convertedSp]
  rw [measured, hconvert, hwait, commanded, if_pos rfl, afterFunc, if_neg hread, if_pos rfl, sending,
    if_pos (by omega)]

variable {p} {s : State} {devices before after : List Device} (a : Addr)

theorem exec_sdStartConv_of_refEnv (hmatch : s.params.cmdMatch ≠ s.params.cmdSearch)
    (henv : s.line.env = .refEnv true devices) (hne : devices ≠ []) :
    ∃ t, exec (.sdStartConv a) s = .next t ∧ t.line.env =
      .refEnv true (devices.map (commanded s.params a s.params.cmdConvert)) := by
  have hpresence : envPresence s.line.env s.line.events = true :=
    henv ▸ envPresence_of_refEnv hne _
  refine ⟨_, exec_sdStartConv s a, ?_⟩
  rw [respond_line, if_pos hpresence]
  exact commandSent_env_of_refEnv _ hmatch henv _ _

theorem exec_sdWait_of_refEnv (res : BitVec 2) (henv : s.line.env = .refEnv true devices) :
    ∃ t, exec (.sdWait res) s = .next t ∧
      t.line.env = .refEnv true (devices.map (devWait s.params res)) := by
  refine ⟨_, exec_sdWait s res, ?_⟩
  rw [respond_line, lineWait_env, henv]
  rfl

/-- `SD.READ_TEMP` where its command leaves one device sending (R176). -/
theorem exec_sdReadTemp_of_sending {d : Device}
    (hpresence : envPresence s.line.env s.line.events = true)
    (hidle : ∀ e ∈ before ++ after, e.mode = .idle)
    (henv : (commandSent s.params a s.params.cmdReadSp s.line).env =
      .refEnv true (before ++ sending s.params 0 d :: after))
    (hlen : d.sp.length = s.params.spLen) (hvalid : scratchpadValid d.sp = true) :
    ∃ t, exec (.sdReadTemp a) s = .next t ∧
      Completed 9 0x00#8 (tempPayload (decodeTemp s.params (scratchpadReg d.sp))) s t := by
  have hread : (scratchpadRead s a).1 = d.sp := by
    rw [scratchpadRead, readBytes_of_sending (q := 0) hidle henv (Nat.zero_add _).le, ← hlen,
      map_getD_range']
  refine ⟨_, exec_sdReadTemp_of_presence a hpresence, ?_⟩
  rw [hread, if_pos hvalid, if_pos hvalid]
  exact completed_respond_line ..

/-- Settles O47: the one device that takes the address converts, and then it alone sends. -/
theorem readingReturnsTheConvertedTemperature :
    Obligations.ReadingReturnsTheConvertedTemperature := by
  intro s before after d res hwf hmatch hread henv hsane hother hres
  have hlen := Params.three_le_spLen_of_wf hwf
  obtain ⟨t1, hexec1, henv1⟩ := exec_sdStartConv_of_refEnv d.rom hmatch henv (by simp)
  obtain ⟨t2, hexec2, henv2⟩ := exec_sdWait_of_refEnv res henv1
  have hparams : t2.params = s.params := (params_of_exec hexec2).trans (params_of_exec hexec1)
  rw [params_of_exec hexec1] at henv2
  have henv3 : (commandSent t2.params d.rom t2.params.cmdReadSp t2.line).env =
      .refEnv true (before.map (measured s.params d.rom res) ++
        sending t2.params 0 { d with sp := convertedSp d, pending := false } ::
          after.map (measured s.params d.rom res)) := by
    rw [hparams, commandSent_env_of_refEnv _ hmatch henv2, List.map_map, List.map_map,
      ← measured_own _ hread (by omega) hres, ← List.map_cons, ← List.map_append]
    rfl
  have hidle : ∀ e ∈ before.map (measured s.params d.rom res) ++
      after.map (measured s.params d.rom res), e.mode = .idle := by
    rw [← List.map_append, List.forall_mem_map]
    exact fun e he => measured_mode_of_ne _ res (hother e he)
  have hpresence : envPresence t2.line.env t2.line.events = true :=
    henv2 ▸ envPresence_of_refEnv (by simp) _
  obtain ⟨t3, hexec3, hcompleted⟩ := exec_sdReadTemp_of_sending d.rom hpresence hidle henv3
    (hparams ▸ convertedSp_length hlen hsane) (convertedSp_valid d)
  rw [scratchpadReg_convertedSp, hparams] at hcompleted
  exact ⟨t1, t2, t3, hexec1, hexec2, hexec3, hcompleted⟩

end Sys2Proof.Machine
end

section
/-! SUPPORT. The devices of the reference environment during a round (R72, R73): those whose address
begins with the directions written so far take part, the others are idle. -/

namespace Sys2Proof.Machine

variable (p : Params) (dir : Nat → Bool)

/-- The bits of a below bit k are the directions written (R145). -/
abbrev MatchesBelow (k : Nat) (a : Addr) : Prop := ∀ j < k, 1 ≤ j → addrBit a j = dir j

variable {dir}

theorem matchesBelow_succ_iff {k : Nat} (hk : 1 ≤ k) {a : Addr} :
    MatchesBelow dir (k + 1) a ↔ MatchesBelow dir k a ∧ addrBit a k = dir k := by
  refine ⟨fun h => ⟨fun j hj => h j (by omega), h k (Nat.lt_succ_self k) hk⟩, fun h j hj hj' => ?_⟩
  obtain ⟨hbelow, hbit⟩ := h
  obtain rfl | hlt : j = k ∨ j < k := by omega
  · exact hbit
  · exact hbelow j hlt hj'

theorem matchesBelow_congr {dir' : Nat → Bool} {k : Nat} (h : ∀ j, 1 ≤ j → j < k → dir j = dir' j)
    (a : Addr) : MatchesBelow dir k a ↔ MatchesBelow dir' k a :=
  forall₃_congr fun j hj hj' => by rw [h j hj' hj]

variable (dir)

/-- A device before bit k of the search. -/
def searching (k : Nat) (d : Device) : Device :=
  { d with
    mode := if MatchesBelow dir k d.rom then if k ≤ 64 then .search k 0 else .func 0 0 else .idle }

variable {dir} {k : Nat} {d : Device}

theorem searching_of_matches (h : MatchesBelow dir k d.rom) :
    searching dir k d = { d with mode := if k ≤ 64 then .search k 0 else .func 0 0 } := by
  rw [searching, if_pos h]

theorem searching_of_not_matches (h : ¬MatchesBelow dir k d.rom) :
    searching dir k d = { d with mode := .idle } := by
  rw [searching, if_neg h]

theorem devLevel_searching (hk : k ≤ 64) (d : Device) :
    devLevel (searching dir k d) = true ↔
      (MatchesBelow dir k d.rom → addrBit d.rom k = true) := by
  by_cases h : MatchesBelow dir k d.rom
  · rw [searching_of_matches h, if_pos hk]
    exact ⟨fun hbit _ => hbit, fun hbit => hbit h⟩
  · rw [searching_of_not_matches h]
    exact ⟨fun _ hmatch => absurd hmatch h, fun _ => rfl⟩

theorem devLevel_devAfterRead_searching (hk : k ≤ 64) (d : Device) :
    devLevel (devAfterRead p (searching dir k d)) = true ↔
      (MatchesBelow dir k d.rom → addrBit d.rom k = false) := by
  by_cases h : MatchesBelow dir k d.rom
  · have hlevel : devLevel (devAfterRead p { d with mode := .search k 0 }) = !addrBit d.rom k := rfl
    rw [searching_of_matches h, if_pos hk, hlevel, Bool.not_eq_true']
    exact ⟨fun hbit _ => hbit, fun hbit => hbit h⟩
  · rw [searching_of_not_matches h]
    exact ⟨fun _ hmatch => absurd hmatch h, fun _ => rfl⟩

/-- A bit step keeps the devices whose bit is the direction written (R72). -/
theorem devWrite_searching (hk : 1 ≤ k) (hk' : k ≤ 64) (d : Device) :
    devWrite p (dir k) (devAfterRead p (devAfterRead p (searching dir k d))) =
      searching dir (k + 1) d := by
  by_cases hbelow : MatchesBelow dir k d.rom
  · have hstep : devWrite p (dir k) (devAfterRead p (devAfterRead p { d with mode := .search k 0 })) =
        { d with
          mode := if dir k ≠ addrBit d.rom k then .idle
            else if k = 64 then .func 0 0 else .search (k + 1) 0 } := rfl
    rw [searching_of_matches hbelow, if_pos hk', hstep]
    by_cases hbit : addrBit d.rom k = dir k
    · rw [searching_of_matches ((matchesBelow_succ_iff hk).mpr ⟨hbelow, hbit⟩),
        if_neg (not_not.mpr hbit.symm)]
      obtain rfl | hlt : k = 64 ∨ k < 64 := by omega
      · rfl
      · rw [if_neg (by omega), if_pos (by omega)]
    · rw [searching_of_not_matches fun h => hbit ((matchesBelow_succ_iff hk).mp h).2,
        if_pos (Ne.symm hbit)]
  · rw [searching_of_not_matches hbelow,
      searching_of_not_matches fun h => hbelow ((matchesBelow_succ_iff hk).mp h).1]
    rfl

/-! ## The line -/

variable {devices : List Device} {l : Line}

theorem bitStep_env (hk : 1 ≤ k) (hk' : k ≤ 64)
    (h : l.env = .refEnv true (devices.map (searching dir k))) :
    (lineWrite p (dir k) (afterReads p 2 l)).env =
      .refEnv true (devices.map (searching dir (k + 1))) := by
  rw [lineWrite_env, afterReads_succ', afterReads_succ', afterReads_zero, lineRead_env, lineRead_env, h]
  simp only [envAfterRead, envAfterWrite, List.map_map]
  exact congrArg _ (List.map_congr_left fun d _ => devWrite_searching p hk hk' d)

/-- The first slot of bit k is 1 where every device that takes part has a 1 there. -/
theorem firstSlot_iff (hk : k ≤ 64) (h : l.env = .refEnv true (devices.map (searching dir k))) :
    (lineRead p l).1 = true ↔
      ∀ x ∈ devices.map Device.rom, MatchesBelow dir k x → addrBit x k = true := by
  rw [lineRead_fst, h, envLevel_refEnv_iff]
  simp only [List.forall_mem_map, devLevel_searching hk, true_and]

/-- The second slot of bit k is 1 where every device that takes part has a 0 there. -/
theorem secondSlot_iff (hk : k ≤ 64) (h : l.env = .refEnv true (devices.map (searching dir k))) :
    (lineRead p (afterReads p 1 l)).1 = true ↔
      ∀ x ∈ devices.map Device.rom, MatchesBelow dir k x → addrBit x k = false := by
  have hafter : (afterReads p 1 l).env =
      .refEnv true ((devices.map (searching dir k)).map (devAfterRead p)) := by
    rw [afterReads_succ', afterReads_zero, lineRead_env, h]
    rfl
  rw [lineRead_fst, hafter, envLevel_refEnv_iff]
  simp only [List.forall_mem_map, devLevel_devAfterRead_searching p hk, true_and]

/-- The search command makes every device take part (R72). -/
theorem roundStart_env (dir : Nat → Bool) (h : l.env = .refEnv true devices) :
    (roundStart p l).env = .refEnv true (devices.map (searching dir 1)) := by
  have hdevice (d : Device) :
      devWrites p (bitsOf p.cmdSearch) (devReset d) = searching dir 1 d := by
    have hall : MatchesBelow dir 1 d.rom := fun j hj hj' => by omega
    rw [devWrites_romCmd, afterRomCmd, if_pos rfl, searching, if_pos hall, if_pos (by decide)]
  rw [roundStart, writeByte, writeBits_env_of_refEnv p (lineReset_env_of_refEnv h), List.map_map]
  exact congrArg _ (List.map_congr_left fun d _ => hdevice d)

theorem bitSteps_env (dir : Nat → Bool) (h : l.env = .refEnv true devices) {n : Nat} (hn : n ≤ 64) :
    (bitSteps p dir n (roundStart p l)).env =
      .refEnv true (devices.map (searching dir (n + 1))) := by
  induction n with
  | zero => exact roundStart_env p dir h
  | succ n ih => exact bitStep_env p (Nat.succ_pos n) hn (ih (by omega))

theorem map_rom_searching (dir : Nat → Bool) (k : Nat) (devices : List Device) :
    (devices.map (searching dir k)).map Device.rom = devices.map Device.rom := by
  rw [List.map_map]
  rfl

/-! ## The round completes -/

variable {p} {rom t : Addr} {ld left lz : Nat}

/-- Some device that takes part has the direction of the bit pair. -/
theorem exists_addrBit_eq_pairDir {xs : List Addr} {b c : Bool}
    (hb : b = true ↔ ∀ x ∈ xs, MatchesBelow dir k x → addrBit x k = true)
    (hc : c = true ↔ ∀ x ∈ xs, MatchesBelow dir k x → addrBit x k = false)
    (hpair : ¬(b = true ∧ c = true)) :
    ∃ x ∈ xs, MatchesBelow dir k x ∧ addrBit x k = pairDir rom ld k b c := by
  by_contra hnone
  push Not at hnone
  cases hdir : pairDir rom ld k b c with
  | false =>
    have hb' : b = true := hb.mpr fun x hx hmatch =>
      Bool.eq_true_of_not_eq_false (hdir ▸ hnone x hx hmatch)
    have hbc : b ≠ c := fun heq => hpair ⟨hb', heq ▸ hb'⟩
    rw [pairDir_of_ne hbc, hb'] at hdir
    cases hdir
  | true =>
    have hc' : c = true := hc.mpr fun x hx hmatch =>
      Bool.eq_false_of_not_eq_true (hdir ▸ hnone x hx hmatch)
    have hbc : b ≠ c := fun heq => hpair ⟨heq ▸ hc', hc'⟩
    rw [pairDir_of_ne hbc] at hdir
    exact hpair ⟨hdir, hc'⟩

theorem roundBits_completes (hk : 1 ≤ k) (hleft : k + left = 65)
    (henv : l.env = .refEnv true (devices.map (searching (addrBit t) k)))
    (hactive : ∃ x ∈ devices.map Device.rom, MatchesBelow (addrBit t) k x) :
    ∃ a z l', roundBits p rom ld left k lz t l = (.completed a z, l') ∧
      a ∈ devices.map Device.rom := by
  induction left generalizing k lz t l with
  | zero =>
    obtain ⟨x, hx, hmatch⟩ := hactive
    obtain rfl : x = t := eq_of_addrBit_eq fun j hj hj' => hmatch j (by omega) hj
    exact ⟨x, lz, l, rfl, hx⟩
  | succ left ih =>
    have hb := firstSlot_iff p (by omega) henv
    have hc := secondSlot_iff p (by omega) henv
    rw [roundBits_succ]
    generalize (lineRead p l).1 = b at hb
    generalize (lineRead p (afterReads p 1 l)).1 = c at hc
    have hpair : ¬(b = true ∧ c = true) := by
      obtain ⟨x, hx, hmatch⟩ := hactive
      rintro ⟨hb', hc'⟩
      exact Bool.false_ne_true ((hc.mp hc' x hx hmatch).symm.trans (hb.mp hb' x hx hmatch))
    obtain ⟨x, hx, hmatch, hbit⟩ := exists_addrBit_eq_pairDir (rom := rom) (ld := ld) hb hc hpair
    simp only [if_neg (mt Bool.and_eq_true_iff.mp hpair)]
    generalize pairDir rom ld k b c = dir at hbit
    have hset {j : Nat} (hj : 1 ≤ j) (hj' : j ≤ 64) :=
      addrBit_setAddrBit t (k := k) hk (by omega) hj hj' dir
    have hdir : addrBit (setAddrBit t k dir) k = dir := by rw [hset hk (by omega), if_pos rfl]
    have hbelow : ∀ j, 1 ≤ j → j < k → addrBit t j = addrBit (setAddrBit t k dir) j :=
      fun j hj hjk => by rw [hset hj (by omega), if_neg (by omega)]
    have hsame : searching (addrBit t) k = searching (addrBit (setAddrBit t k dir)) k :=
      funext fun d => by simp only [searching, matchesBelow_congr hbelow]
    rw [hsame] at henv
    refine ih (Nat.succ_pos k) (by omega) ?_ ⟨x, hx, (matchesBelow_succ_iff hk).mpr ⟨?_, ?_⟩⟩
    · have hstep := bitStep_env p hk (by omega) henv
      rwa [hdir] at hstep
    · exact (matchesBelow_congr hbelow x).mp hmatch
    · rw [hdir, hbit]

theorem round_completes (hne : devices ≠ []) (henv : l.env = .refEnv true devices) :
    ∃ a z l', round p rom ld l = (.completed a z, l') ∧ a ∈ devices.map Device.rom := by
  rw [round_of_presence (henv ▸ envPresence_of_refEnv hne _)]
  obtain ⟨d, hd⟩ := List.exists_mem_of_ne_nil devices hne
  exact roundBits_completes (le_refl 1) rfl (roundStart_env p _ henv)
    ⟨d.rom, List.mem_map_of_mem hd, fun j hj hj' => by omega⟩

/-- Settles O34: as long as a device takes part, a bit pair is not (1, 1) and some device has the
direction it gives. -/
theorem roundFindsADeviceOfTheLine : Obligations.RoundFindsADeviceOfTheLine :=
  fun _ _ _ _ _ _ hne => round_completes hne rfl

end Sys2Proof.Machine
end

section
/-! SUPPORT. The order of the enumeration (R154): the first bit where two addresses differ decides. -/

namespace Sys2Proof.Machine

variable {x y z : Addr}

theorem addrBefore_irrefl (x : Addr) : ¬addrBefore x x := by
  rintro ⟨k, -, -, -, h0, h1⟩
  exact Bool.false_ne_true (h0.symm.trans h1)

theorem addrBefore_trans (hxy : addrBefore x y) (hyz : addrBefore y z) : addrBefore x z := by
  obtain ⟨k, hk, hk', heq, h0, h1⟩ := hxy
  obtain ⟨m, hm, hm', heq', h0', h1'⟩ := hyz
  have hbelow : ∀ j, 1 ≤ j → j < k → j < m → addrBit x j = addrBit z j :=
    fun j hj hjk hjm => (heq j hj hjk).trans (heq' j hj hjm)
  obtain hlt | rfl | hlt := Nat.lt_trichotomy k m
  · exact ⟨k, hk, hk', fun j hj hjk => hbelow j hj hjk (by omega), h0, (heq' k hk hlt) ▸ h1⟩
  · exact absurd (h1.symm.trans h0') (by decide)
  · exact ⟨m, hm, hm', fun j hj hjm => hbelow j hj (by omega) hjm, (heq m hm hlt).trans h0', h1'⟩

theorem addrBefore_asymm (hxy : addrBefore x y) : ¬addrBefore y x :=
  fun hyx => addrBefore_irrefl x (addrBefore_trans hxy hyx)

/-- The first bit where two different addresses differ. -/
theorem exists_first_difference (h : x ≠ y) :
    ∃ k, 1 ≤ k ∧ k ≤ 64 ∧ MatchesBelow (addrBit y) k x ∧ addrBit x k ≠ addrBit y k := by
  have hexists : ∃ k, 1 ≤ k ∧ k ≤ 64 ∧ addrBit x k ≠ addrBit y k := by
    by_contra hnone
    push Not at hnone
    exact h (eq_of_addrBit_eq hnone)
  obtain ⟨hk, hk', hdiff⟩ := Nat.find_spec hexists
  refine ⟨Nat.find hexists, hk, hk', fun j hj hj' => ?_, hdiff⟩
  by_contra hne
  exact Nat.find_min hexists hj ⟨hj', by omega, hne⟩

theorem addrBefore_of_first_difference {k : Nat} (hk : 1 ≤ k) (hk' : k ≤ 64)
    (hmatch : MatchesBelow (addrBit y) k x) (hx : addrBit x k = true) (hy : addrBit y k = false) :
    addrBefore y x :=
  ⟨k, hk, hk', fun j hj hjk => (hmatch j hjk hj).symm, hy, hx⟩

theorem addrBefore_total (h : x ≠ y) : addrBefore x y ∨ addrBefore y x := by
  obtain ⟨k, hk, hk', hmatch, hdiff⟩ := exists_first_difference h
  cases hx : addrBit x k with
  | true =>
    have hy : addrBit y k = false := by simpa [hx] using hdiff.symm
    exact .inr (addrBefore_of_first_difference hk hk' hmatch hx hy)
  | false =>
    have hy : addrBit y k = true := by simpa [hx] using hdiff.symm
    exact .inl (addrBefore_of_first_difference hk hk' (fun j hj hj' => (hmatch j hj hj').symm) hy hx)

/-- Different addresses can be put in order. -/
theorem exists_ordered_perm {xs : List Addr} (h : xs.Nodup) :
    ∃ order : List Addr, order.Perm xs ∧ order.Pairwise addrBefore := by
  classical
  have hsorted : (xs.mergeSort fun x y => decide (x = y ∨ addrBefore x y)).Pairwise
      fun x y => decide (x = y ∨ addrBefore x y) := by
    refine List.pairwise_mergeSort ?_ ?_ xs
    · simp only [decide_eq_true_eq]
      rintro x y z (rfl | hxy) (rfl | hyz)
      · exact .inl rfl
      · exact .inr hyz
      · exact .inr hxy
      · exact .inr (addrBefore_trans hxy hyz)
    · intro x y
      simp only [Bool.or_eq_true, decide_eq_true_eq]
      by_cases hxy : x = y
      · exact .inl (.inl hxy)
      · exact (addrBefore_total hxy).imp .inr .inr
  have hperm := List.mergeSort_perm xs fun x y => decide (x = y ∨ addrBefore x y)
  have hnodup := hperm.nodup_iff.mpr h
  exact ⟨_, hperm, hsorted.imp₂ (fun x y hle hne => (of_decide_eq_true hle).resolve_left hne) hnodup⟩

/-- The first of some ordered addresses is the one with no address before it. -/
theorem eq_head_of_least {rest : List Addr} (hordered : (y :: rest).Pairwise addrBefore)
    (hx : x ∈ y :: rest) (hleast : ∀ z ∈ y :: rest, z = x ∨ addrBefore x z) : x = y := by
  obtain rfl | hrest := List.mem_cons.mp hx
  · rfl
  · have hyx := (List.pairwise_cons.mp hordered).1 x hrest
    exact (hleast y List.mem_cons_self).elim Eq.symm fun hxy => absurd hyx (addrBefore_asymm hxy)

/-- What is behind the first of some ordered addresses is what comes after it. -/
theorem mem_tail_iff_after_head {rest : List Addr} (hordered : (y :: rest).Pairwise addrBefore) :
    x ∈ rest ↔ x ∈ y :: rest ∧ addrBefore y x := by
  refine ⟨fun hx => ⟨List.mem_cons_of_mem y hx, (List.pairwise_cons.mp hordered).1 x hx⟩, ?_⟩
  rintro ⟨hx, hyx⟩
  refine (List.mem_cons.mp hx).resolve_left ?_
  rintro rfl
  exact addrBefore_irrefl x hyx

end Sys2Proof.Machine
end

section
/-! SUPPORT. The address that a round over the reference environment finds, among the addresses of the
line (R145 to R147, R154). -/

namespace Sys2Proof.Machine

/-- At bit k of a another address of the line takes the other branch. -/
def Collision (roms : List Addr) (a : Addr) (k : Nat) : Prop :=
  ∃ x ∈ roms, MatchesBelow (addrBit a) k x ∧ addrBit x k ≠ addrBit a k

/-- `last_zero` is the last collision of a where 0 was taken, or 0 (R147). -/
structure LastZero (roms : List Addr) (a : Addr) (lastZero : Nat) : Prop where
  le   : lastZero ≤ 64
  zero : lastZero ≠ 0 → Collision roms a lastZero ∧ addrBit a lastZero = false
  last : ∀ k, lastZero < k → k ≤ 64 → Collision roms a k → addrBit a k = true

/-- What a round from `ROM` and `LD` finds on a line with some addresses. -/
structure Found (roms : List Addr) (rom : Addr) (ld : Nat) (a : Addr) (lastZero : Nat) : Prop where
  mem      : a ∈ roms
  dir      : ∀ k, 1 ≤ k → k ≤ 64 → Collision roms a k → addrBit a k = collisionDir rom ld k
  lastZero : LastZero roms a lastZero

variable {p : Params} {devices : List Device} {l l' : Line} {rom a x : Addr} {ld z k : Nat}
  {roms : List Addr}

/-- The two slots agree exactly at a collision. -/
theorem slots_eq_iff_collision (ha : a ∈ devices.map Device.rom)
    (henv : l.env = .refEnv true devices) (hk : 1 ≤ k) (hk' : k ≤ 64)
    (hpair : ¬(firstRead p (addrBit a) (roundStart p l) k = true ∧
      secondRead p (addrBit a) (roundStart p l) k = true)) :
    firstRead p (addrBit a) (roundStart p l) k = secondRead p (addrBit a) (roundStart p l) k ↔
      Collision (devices.map Device.rom) a k := by
  obtain ⟨n, rfl⟩ : ∃ n, k = n + 1 := ⟨k - 1, by omega⟩
  have hsteps := bitSteps_env p (addrBit a) henv (n := n) (by omega)
  have hfirst : firstRead p (addrBit a) (roundStart p l) (n + 1) = true ↔ _ :=
    firstSlot_iff p hk' hsteps
  have hsecond : secondRead p (addrBit a) (roundStart p l) (n + 1) = true ↔ _ :=
    secondSlot_iff p hk' hsteps
  have hown : MatchesBelow (addrBit a) (n + 1) a := fun _ _ _ => rfl
  generalize firstRead p (addrBit a) (roundStart p l) (n + 1) = b at *
  generalize secondRead p (addrBit a) (roundStart p l) (n + 1) = c at *
  constructor
  · rintro rfl
    by_contra hnone
    have hall : ∀ x ∈ devices.map Device.rom, MatchesBelow (addrBit a) (n + 1) x →
        addrBit x (n + 1) = addrBit a (n + 1) := fun x hx hmatch => by
      by_contra hne
      exact hnone ⟨x, hx, hmatch, hne⟩
    cases hbit : addrBit a (n + 1) <;> rw [hbit] at hall
    · exact hpair ⟨hsecond.mpr hall, hsecond.mpr hall⟩
    · exact hpair ⟨hfirst.mpr hall, hfirst.mpr hall⟩
  · rintro ⟨x, hx, hmatch, hne⟩
    have hb : b = false := Bool.eq_false_of_not_eq_true fun hb =>
      hne ((hfirst.mp hb x hx hmatch).trans (hfirst.mp hb a ha hown).symm)
    have hc : c = false := Bool.eq_false_of_not_eq_true fun hc =>
      hne ((hsecond.mp hc x hx hmatch).trans (hsecond.mp hc a ha hown).symm)
    rw [hb, hc]

theorem length_roundEvents (b c dir : Nat → Bool) : (roundEvents p b c dir).length = 201 := by
  simp [roundEvents, bitsOf, List.length_flatMap]

/-- A round over the reference environment (R145, R312). -/
theorem round_finds (henv : l.env = .refEnv true devices) (hne : devices ≠ []) :
    ∃ a z l' devices', round p rom ld l = (.completed a z, l') ∧
      Found (devices.map Device.rom) rom ld a z ∧
      l'.env = .refEnv true devices' ∧ devices'.map Device.rom = devices.map Device.rom ∧
      l'.events.length = l.events.length + 201 := by
  obtain ⟨a, z, l', hround, ha⟩ := round_completes (p := p) (rom := rom) (ld := ld) hne henv
  obtain ⟨hpresence, hbits⟩ := round_completed hround
  obtain ⟨rfl, hdirs⟩ := roundBits_follows_pairDir (n := 0) (l := roundStart p l) hbits rfl
  obtain ⟨hz, hlast⟩ := roundBits_lastZero (n := 0) (l := roundStart p l) hbits rfl (le_refl 0)
  have hcollision (k : Nat) (hk : 1 ≤ k) (hk' : k ≤ 64) :=
    slots_eq_iff_collision ha henv hk hk' (hdirs k hk hk').1
  refine ⟨a, z, _, _, hround, ⟨ha, fun k hk hk' hcol => ?_, ⟨?_, fun hz0 => ?_,
    fun k hzk hk' hcol => ?_⟩⟩, bitSteps_env p (addrBit a) henv (le_refl 64),
    map_rom_searching .., ?_⟩
  · rw [(hdirs k hk hk').2, (hcollision k hk hk').mpr hcol, pairDir_self]
  · obtain rfl | ⟨-, hle, -⟩ := hz <;> omega
  · obtain ⟨hz1, hz64, heq, hbit⟩ := hz.resolve_left hz0
    exact ⟨(hcollision z hz1 hz64).mp heq, hbit⟩
  · exact Bool.eq_true_of_not_eq_false fun hbit =>
      hlast k (by omega) hzk hk' ⟨(hcollision k (by omega) hk').mpr hcol, hbit⟩
  · rw [bitSteps_roundStart_events hpresence, List.length_append, List.length_reverse,
      length_roundEvents, Nat.add_comm]

/-! ## The next address in order -/

/-- The first round finds the least address. -/
theorem Found.first (h : Found roms rom 0 a z) (hx : x ∈ roms) : x = a ∨ addrBefore a x := by
  refine or_iff_not_imp_left.mpr fun hne => ?_
  obtain ⟨k, hk, hk', hmatch, hdiff⟩ := exists_first_difference hne
  have hbit : addrBit a k = false := by
    rw [h.dir k hk hk' ⟨x, hx, hmatch, hdiff⟩, collisionDir_of_gt hk]
  exact addrBefore_of_first_difference hk hk' hmatch (by simpa [hbit] using hdiff) hbit

/-- With `LD` = 0 no address is left. -/
theorem LastZero.none_after (h : LastZero roms a 0) (hx : x ∈ roms) : ¬addrBefore a x := by
  rintro ⟨k, hk, hk', heq, h0, h1⟩
  have hcol : Collision roms a k :=
    ⟨x, hx, fun j hj hj' => (heq j hj' hj).symm, by rw [h0, h1]; decide⟩
  exact Bool.false_ne_true (h0.symm.trans (h.last k hk hk' hcol))

/-- With `LD` not 0 some address is left. -/
theorem LastZero.exists_after (h : LastZero roms a z) (hz : z ≠ 0) :
    ∃ x ∈ roms, addrBefore a x := by
  obtain ⟨⟨x, hx, hmatch, hdiff⟩, hbit⟩ := h.zero hz
  exact ⟨x, hx, addrBefore_of_first_difference (Nat.pos_of_ne_zero hz) h.le hmatch
    (by simpa [hbit] using hdiff) hbit⟩

/-- Below `LD` a round repeats the previous address. -/
theorem Found.matches_previous (h : Found roms rom ld a z) (hrom : rom ∈ roms) (hld : ld ≤ 64) :
    MatchesBelow (addrBit a) ld rom := by
  intro j
  induction j using Nat.strong_induction_on with
  | _ j ih =>
    intro hj hj'
    by_contra hne
    have hcol : Collision roms a j := ⟨rom, hrom, fun i hi hi' => ih i hi (by omega) hi', hne⟩
    rw [h.dir j hj' (by omega) hcol, collisionDir_of_lt hj] at hne
    exact hne rfl

/-- At `LD` it takes the other branch. -/
theorem Found.bit_at_ld (h : Found roms rom ld a z) (hrom : rom ∈ roms) (hlast : LastZero roms rom ld)
    (hld : ld ≠ 0) : addrBit a ld = true := by
  obtain ⟨⟨y, hy, hmatch, hdiff⟩, hbit⟩ := hlast.zero hld
  have hprevious := h.matches_previous hrom hlast.le
  by_contra hfalse
  rw [Bool.not_eq_true] at hfalse
  have hcol : Collision roms a ld := by
    refine ⟨y, hy, fun j hj hj' => (hmatch j hj hj').trans (hprevious j hj hj'), ?_⟩
    rwa [hfalse, ← hbit]
  rw [h.dir ld (Nat.pos_of_ne_zero hld) hlast.le hcol, collisionDir_self] at hfalse
  cases hfalse

/-- A later round finds an address after the previous one … -/
theorem Found.after (h : Found roms rom ld a z) (hrom : rom ∈ roms) (hlast : LastZero roms rom ld)
    (hld : ld ≠ 0) : addrBefore rom a :=
  ⟨ld, Nat.pos_of_ne_zero hld, hlast.le, fun j hj hj' => h.matches_previous hrom hlast.le j hj' hj,
    (hlast.zero hld).2, h.bit_at_ld hrom hlast hld⟩

/-- … and the least of those. -/
theorem Found.next (h : Found roms rom ld a z) (hrom : rom ∈ roms) (hlast : LastZero roms rom ld)
    (hld : ld ≠ 0) (hx : x ∈ roms) (hafter : addrBefore rom x) : x = a ∨ addrBefore a x := by
  refine or_iff_not_imp_left.mpr fun hne => ?_
  obtain ⟨k, hk, hk', heq, h0, h1⟩ := hafter
  obtain ⟨m, hm, hm', hmatch, hdiff⟩ := exists_first_difference hne
  have hprevious := h.matches_previous hrom hlast.le
  have hcol : Collision roms a m := ⟨x, hx, hmatch, hdiff⟩
  have hkld : k ≤ ld := by
    by_contra hgt
    have hcol' : Collision roms rom k :=
      ⟨x, hx, fun j hj hj' => (heq j hj' hj).symm, by rw [h0, h1]; decide⟩
    exact Bool.false_ne_true (h0.symm.trans (hlast.last k (by omega) hk' hcol'))
  have hbit : addrBit a m = false := by
    obtain hlt | rfl | hgt := Nat.lt_trichotomy m ld
    · have hmk : m = k := by
        obtain hmk | hmk | hmk := Nat.lt_trichotomy m k
        · exact absurd ((heq m hm hmk).symm.trans (hprevious m hlt hm)) hdiff
        · exact hmk
        · have hrx : addrBit rom k = addrBit x k :=
            (hprevious k (by omega) hk).trans (hmatch k hmk hk).symm
          rw [h0, h1] at hrx
          cases hrx
      rw [← hprevious m hlt hm, hmk, h0]
    · have hbitm := h.bit_at_ld hrom hlast hld
      obtain hkm | rfl := Nat.lt_or_eq_of_le hkld
      · have hrx : addrBit rom k = addrBit x k :=
          (hprevious k hkm hk).trans (hmatch k hkm hk).symm
        rw [h0, h1] at hrx
        cases hrx
      · exact absurd (h1.trans hbitm.symm) hdiff
    · rw [h.dir m hm hm' hcol, collisionDir_of_gt hgt]
  exact addrBefore_of_first_difference hm hm' hmatch (by simpa [hbit] using hdiff) hbit

end Sys2Proof.Machine
end

section
/-! SUPPORT. One pass over the reference environment (R152). -/

namespace Sys2Proof.Machine

variable {roms : List Addr} {s t u : State} {a previous : Addr} {rest : List Addr}

/-- The line is the reference environment with some addresses. -/
def OnLine (roms : List Addr) (s : State) : Prop :=
  ∃ devices : List Device, s.line.env = .refEnv true devices ∧ devices.map Device.rom = roms

/-- The state after a round of the pass has found an address. -/
structure Passing (roms : List Addr) (s : State) : Prop where
  line : OnLine roms s
  mem  : s.rom ∈ roms
  last : LastZero roms s.rom s.ld.toNat
  done : s.done = true ↔ s.ld.toNat = 0

/-- From s to t `DS.NEXT` has yielded the addresses in order and dropped none (R301). -/
structure Yielded (order : List Addr) (s t : State) : Prop where
  rsp    : t.rsp = s.rsp ++ order.flatMap (fun a => 0x00#8 :: 0x01#8 :: a.toList)
  diag   : t.diag = s.diag
  events : t.line.events.length = s.line.events.length + 201 * order.length

theorem Yielded.cons (h : Yielded [a] s u) (hrest : Yielded rest u t) : Yielded (a :: rest) s t where
  rsp := by
    rw [hrest.rsp, h.rsp, List.append_assoc, ← List.flatMap_append, List.singleton_append]
  diag := hrest.diag.trans h.diag
  events := by
    rw [hrest.events, h.events, List.length_singleton, List.length_cons]
    omega

/-- A round over a line of valid addresses ends the operation. -/
theorem exec_dsNext_finds (hline : OnLine roms s) (hne : roms ≠ [])
    (hvalid : ∀ a ∈ roms, addrValid a = true) (hdone : s.done = false) :
    ∃ t, exec .dsNext s = .next t ∧ Found roms s.rom s.ld.toNat t.rom t.ld.toNat ∧
      Passing roms t ∧ Yielded [t.rom] s t := by
  obtain ⟨devices, henv, rfl⟩ := hline
  obtain ⟨a, z, l', devices', hround, hfound, henv', hroms, hevents⟩ :=
    round_finds (p := s.params) (rom := s.rom) (ld := s.ld.toNat) henv (by simpa using hne)
  obtain ⟨t, hexec, ⟨⟨-, hrsp⟩, -⟩, rfl, rfl, hdone', rfl, -, ⟨-, hdiag⟩, -⟩ :=
    nextYieldsAValidAddress s l' a z hdone hround (hvalid a hfound.mem)
  exact ⟨t, hexec, hfound, ⟨⟨devices', henv', hroms⟩, hfound.mem, hfound.lastZero, hdone'⟩,
    ⟨by simpa using hrsp, hdiag, hevents⟩⟩

theorem searchPass_succ (n : Nat) (h : exec .dsNext s = .next u) :
    searchPass (n + 1) s = searchPass n u := by
  simp only [searchPass, h]

theorem searchPass_append {n : Nat} (m : Nat) (h : searchPass n s = .next t) :
    searchPass (n + m) s = searchPass m t := by
  induction n generalizing s with
  | zero =>
    cases h
    rw [Nat.zero_add]
  | succ n ih =>
    cases hexec : exec .dsNext s with
    | next u =>
      rw [searchPass_succ _ hexec] at h
      rw [Nat.succ_add, searchPass_succ _ hexec, ih h]
    | fault | refused => simp [searchPass, hexec] at h

/-- The rest of a pass yields what lies after the address found last. -/
theorem Passing.yields_rest (h : Passing roms s) (hvalid : ∀ a ∈ roms, addrValid a = true)
    (hordered : rest.Pairwise addrBefore) (hrest : ∀ x, x ∈ rest ↔ x ∈ roms ∧ addrBefore s.rom x) :
    ∃ t, searchPass rest.length s = .next t ∧ t.done = true ∧ Yielded rest s t := by
  induction rest generalizing s with
  | nil =>
    have hld : s.ld.toNat = 0 := by
      by_contra hne
      obtain ⟨x, hx, hafter⟩ := h.last.exists_after hne
      exact List.not_mem_nil ((hrest x).mpr ⟨hx, hafter⟩)
    exact ⟨s, rfl, h.done.mpr hld, ⟨by simp, rfl, rfl⟩⟩
  | cons b rest ih =>
    obtain ⟨hb, hbefore⟩ := (hrest b).mp List.mem_cons_self
    have hld : s.ld.toNat ≠ 0 := fun hzero =>
      (hzero ▸ h.last : LastZero roms s.rom 0).none_after hb hbefore
    obtain ⟨u, hexec, hfound, hpassing, hyield⟩ := exec_dsNext_finds h.line
      (List.ne_nil_of_mem hb) hvalid (Bool.eq_false_of_not_eq_true (mt h.done.mp hld))
    have hafter := hfound.after h.mem h.last hld
    have hhead : u.rom = b := eq_head_of_least hordered ((hrest _).mpr ⟨hfound.mem, hafter⟩)
      fun x hx => hfound.next h.mem h.last hld ((hrest x).mp hx).1 ((hrest x).mp hx).2
    have hrest' : ∀ x, x ∈ rest ↔ x ∈ roms ∧ addrBefore u.rom x := fun x => by
      rw [hhead, mem_tail_iff_after_head hordered, hrest]
      exact ⟨fun ⟨⟨hx, _⟩, hbx⟩ => ⟨hx, hbx⟩,
        fun ⟨hx, hbx⟩ => ⟨⟨hx, addrBefore_trans hbefore hbx⟩, hbx⟩⟩
    obtain ⟨t, hpass, hdone, hyields⟩ := ih hpassing hordered.of_cons hrest'
    refine ⟨t, (searchPass_succ _ hexec).trans hpass, hdone, ?_⟩
    rw [hhead] at hyield
    exact hyield.cons hyields

/-- Settles O35: the first round finds the least address, each later one the next, and `DONE` is set
where none is left. -/
theorem passYieldsEveryDeviceOnce : Obligations.PassYieldsEveryDeviceOnce := by
  intro s devices hne henv hnodup hvalid hrom hld hdone
  obtain ⟨order, hperm, hordered⟩ := exists_ordered_perm hnodup
  have hroms : devices.map Device.rom ≠ [] := by simpa using hne
  obtain ⟨u, hexec, hfound, hpassing, hyield⟩ := exec_dsNext_finds ⟨devices, henv, rfl⟩ hroms
    (List.forall_mem_map.mpr hvalid) hdone
  rw [hld] at hfound
  obtain ⟨b, rest, rfl⟩ : ∃ b rest, order = b :: rest :=
    List.exists_cons_of_ne_nil fun hnil => hroms (hnil ▸ hperm).nil_eq.symm
  have hhead : u.rom = b := eq_head_of_least hordered (hperm.mem_iff.mpr hfound.mem)
    fun x hx => hfound.first (hperm.mem_iff.mp hx)
  have hrest : ∀ x, x ∈ rest ↔ x ∈ devices.map Device.rom ∧ addrBefore u.rom x := fun x => by
    rw [hhead, ← hperm.mem_iff, mem_tail_iff_after_head hordered]
  obtain ⟨v, hpass, hdone', hyields⟩ :=
    hpassing.yields_rest (List.forall_mem_map.mpr hvalid) hordered.of_cons hrest
  rw [hhead] at hyield
  obtain ⟨hrsp, hdiag, hevents⟩ := hyield.cons hyields
  have hlen : devices.length = rest.length + 1 := by
    simpa using hperm.length_eq.symm
  have hpass' : searchPass devices.length s = .next v := by
    rw [hlen, searchPass_succ _ hexec, hpass]
  refine ⟨_, b :: rest, (searchPass_append 1 hpass').trans
    (searchPass_succ 0 (exec_dsNext_of_done hdone')), hperm, hordered, ?_, ?_, ?_, ?_⟩
  · rw [respond_rsp, hrsp]
    rfl
  · rw [respond_done, hdone']
  · rw [respond_diag, hdiag]
  · rw [respond_line, hevents, hlen, List.length_cons]

end Sys2Proof.Machine
end
